-- ==== Sys2Proof/Word.lean ====
section
/-! DEFINITION. The word types of the engine: what the spec treats as bits is a bit vector, an index is a `Fin`. -/

namespace Sys2Proof

/-- An 8-bit unsigned value: a memory cell, a general register, SP, a timer (R13, R21, R23, R24, R34). -/
abbrev Byte := BitVec 8

/-- A 16-bit unsigned value: an instruction word, PC, I, a stack slot (R18, R19, R22, R48). -/
abbrev Word := BitVec 16

/-- A 4-bit field of an instruction word (R49). -/
abbrev Nibble := BitVec 4

/-- The 12-bit address field NNN (R49). -/
abbrev Addr12 := BitVec 12

/-- The number of a general register, 0 to 15: no index can be out of range (R14). -/
abbrev RegIdx := Fin 16

/-- The number of a key, 0x0 to 0xF (R25). -/
abbrev KeyIdx := Fin 16

end Sys2Proof
end

