-- ==== Sys2Proof/Syntax.lean ====
section
/-! DEFINITION. The instructions: one constructor per row of spec/opcode_table.json, in the table's order (R60).
A field the decoder does not examine is carried in the constructor all the same, so that no bit of a word is lost; no meaning
reads it (log 8). -/

namespace Sys2Proof

/-- The 35 operations of R60. -/
inductive Instr where
  /-- 0NNN SYS addr (R87). -/
  | sys (nnn : Addr12)
  /-- 0xE0 CLS (R113); `x` is w[11:8], not examined (R52). -/
  | cls (x : Nibble)
  /-- 0xEE RET (R88); `x` is w[11:8], not examined (R52). -/
  | ret (x : Nibble)
  /-- 1NNN JP addr (R89). -/
  | jp (nnn : Addr12)
  /-- 2NNN CALL addr (R90). -/
  | call (nnn : Addr12)
  /-- 3XNN SE Vx, byte (R91). -/
  | seByte (x : RegIdx) (nn : Byte)
  /-- 4XNN SNE Vx, byte (R92). -/
  | sneByte (x : RegIdx) (nn : Byte)
  /-- 5XYN SE Vx, Vy (R93); `n` is not examined (R53). -/
  | seReg (x y : RegIdx) (n : Nibble)
  /-- 6XNN LD Vx, byte (R73). -/
  | ldByte (x : RegIdx) (nn : Byte)
  /-- 7XNN ADD Vx, byte (R74). -/
  | addByte (x : RegIdx) (nn : Byte)
  /-- 8XY0 LD Vx, Vy (R75). -/
  | ldReg (x y : RegIdx)
  /-- 8XY1 OR Vx, Vy (R76). -/
  | orReg (x y : RegIdx)
  /-- 8XY2 AND Vx, Vy (R77). -/
  | andReg (x y : RegIdx)
  /-- 8XY3 XOR Vx, Vy (R78). -/
  | xorReg (x y : RegIdx)
  /-- 8XY4 ADD Vx, Vy (R79). -/
  | addReg (x y : RegIdx)
  /-- 8XY5 SUB Vx, Vy (R80). -/
  | sub (x y : RegIdx)
  /-- 8XY6 SHR Vx (R81); `y` is encoded but not read. -/
  | shr (x y : RegIdx)
  /-- 8XY7 SUBN Vx, Vy (R82). -/
  | subn (x y : RegIdx)
  /-- 8XYE SHL Vx (R83); `y` is encoded but not read. -/
  | shl (x y : RegIdx)
  /-- 9XYN SNE Vx, Vy (R94); `n` is not examined (R53). -/
  | sneReg (x y : RegIdx) (n : Nibble)
  /-- ANNN LD I, addr (R98). -/
  | ldI (nnn : Addr12)
  /-- BNNN JP V0, addr (R95). -/
  | jpV0 (nnn : Addr12)
  /-- CXNN RND Vx, byte (R84). -/
  | rnd (x : RegIdx) (nn : Byte)
  /-- DXYN DRW Vx, Vy, nibble (R114). -/
  | drw (x y : RegIdx) (n : Nibble)
  /-- EX9E SKP Vx (R108). -/
  | skp (x : RegIdx)
  /-- EXA1 SKNP Vx (R109). -/
  | sknp (x : RegIdx)
  /-- FX07 LD Vx, DT (R105). -/
  | ldVxDt (x : RegIdx)
  /-- FX0A LD Vx, K (R110). -/
  | ldVxK (x : RegIdx)
  /-- FX15 LD DT, Vx (R106). -/
  | ldDtVx (x : RegIdx)
  /-- FX18 LD ST, Vx (R107). -/
  | ldStVx (x : RegIdx)
  /-- FX1E ADD I, Vx (R99). -/
  | addI (x : RegIdx)
  /-- FX29 LD F, Vx (R100). -/
  | ldF (x : RegIdx)
  /-- FX33 LD B, Vx (R101). -/
  | ldB (x : RegIdx)
  /-- FX55 LD [I], Vx (R102). -/
  | storeRegs (x : RegIdx)
  /-- FX65 LD Vx, [I] (R103). -/
  | loadRegs (x : RegIdx)
  deriving DecidableEq, Repr

end Sys2Proof
end

