-- ==== Sys2Proof/WellFormed.lean ====
section
/-! DEFINITION. Which terms of `Instr` are instructions: every field has its width in its type, so the one check is that
SYS does not name a word that is CLS or RET. -/

namespace Sys2Proof

/-- SYS is every 0NNN whose low byte is neither 0xE0 nor 0xEE (R54, R87). -/
def sysAddrOk (nnn : Addr12) : Bool :=
  nnn.setWidth 8 != 0xE0#8 && nnn.setWidth 8 != 0xEE#8

/-- The instruction is one that some word decodes to (R54). -/
def Instr.wf : Instr → Bool
  | .sys nnn => sysAddrOk nnn
  | .cls _ | .ret _ | .jp _ | .call _ => true
  | .seByte _ _ | .sneByte _ _ | .seReg _ _ _ | .ldByte _ _ | .addByte _ _ => true
  | .ldReg _ _ | .orReg _ _ | .andReg _ _ | .xorReg _ _ | .addReg _ _ => true
  | .sub _ _ | .shr _ _ | .subn _ _ | .shl _ _ | .sneReg _ _ _ => true
  | .ldI _ | .jpV0 _ | .rnd _ _ | .drw _ _ _ | .skp _ | .sknp _ => true
  | .ldVxDt _ | .ldVxK _ | .ldDtVx _ | .ldStVx _ | .addI _ => true
  | .ldF _ | .ldB _ | .storeRegs _ | .loadRegs _ => true

end Sys2Proof
end

