-- ==== Sys2Proof/Decode.lean ====
section
/-! DEFINITION. The decoder, total on every word (R52 to R59), and after it the encoder from the same tables. -/

namespace Sys2Proof

/-! ### Fields (R49) -/

/-- The family, w[15:12]. -/
def family (w : Word) : Nibble := w.extractLsb' 12 4

/-- w[11:8] as a nibble. -/
def nibbleX (w : Word) : Nibble := w.extractLsb' 8 4

/-- w[7:4] as a nibble. -/
def nibbleY (w : Word) : Nibble := w.extractLsb' 4 4

/-- X, w[11:8], a register number. -/
def fieldX (w : Word) : RegIdx := (nibbleX w).toFin

/-- Y, w[7:4], a register number. -/
def fieldY (w : Word) : RegIdx := (nibbleY w).toFin

/-- N, w[3:0]: the low nibble. -/
def fieldN (w : Word) : Nibble := w.extractLsb' 0 4

/-- NN, w[7:0]: the low byte. -/
def fieldNN (w : Word) : Byte := w.extractLsb' 0 8

/-- NNN, w[11:0]. -/
def fieldNNN (w : Word) : Addr12 := w.extractLsb' 0 12

/-! ### The decoder -/

/-- Why a word is none of the 35 operations: no selector of its family matches (R55, R56, R57). Such a word is no error: it
executes as a no-op (R58). -/
inductive Unrecognised where
  /-- Family 8 with a low nibble of 8 to D or F (R55). -/
  | family8 (selector : Nibble)
  /-- Family E with a low byte other than 9E and A1 (R56). -/
  | familyE (selector : Byte)
  /-- Family F with a low byte outside the nine of R57. -/
  | familyF (selector : Byte)
  deriving DecidableEq, Repr

/-- What a word decodes to: one of the 35 operations, or an unrecognised word, by name (R59). -/
inductive Decoded where
  | instr (i : Instr)
  | unrecognised (u : Unrecognised)
  deriving DecidableEq, Repr

/-- Family 0, by low byte (R54). -/
def decodeFamily0 (w : Word) : Decoded :=
  if fieldNN w = 0xE0#8 then .instr (.cls (nibbleX w))
  else if fieldNN w = 0xEE#8 then .instr (.ret (nibbleX w))
  else .instr (.sys (fieldNNN w))

/-- Family 8, by low nibble (R55). -/
def decodeFamily8 (w : Word) : Decoded :=
  match (fieldN w).toNat with
  | 0x0 => .instr (.ldReg (fieldX w) (fieldY w))
  | 0x1 => .instr (.orReg (fieldX w) (fieldY w))
  | 0x2 => .instr (.andReg (fieldX w) (fieldY w))
  | 0x3 => .instr (.xorReg (fieldX w) (fieldY w))
  | 0x4 => .instr (.addReg (fieldX w) (fieldY w))
  | 0x5 => .instr (.sub (fieldX w) (fieldY w))
  | 0x6 => .instr (.shr (fieldX w) (fieldY w))
  | 0x7 => .instr (.subn (fieldX w) (fieldY w))
  | 0xE => .instr (.shl (fieldX w) (fieldY w))
  | _ => .unrecognised (.family8 (fieldN w))

/-- Family E, by low byte (R56). -/
def decodeFamilyE (w : Word) : Decoded :=
  match (fieldNN w).toNat with
  | 0x9E => .instr (.skp (fieldX w))
  | 0xA1 => .instr (.sknp (fieldX w))
  | _ => .unrecognised (.familyE (fieldNN w))

/-- Family F, by low byte (R57). -/
def decodeFamilyF (w : Word) : Decoded :=
  match (fieldNN w).toNat with
  | 0x07 => .instr (.ldVxDt (fieldX w))
  | 0x0A => .instr (.ldVxK (fieldX w))
  | 0x15 => .instr (.ldDtVx (fieldX w))
  | 0x18 => .instr (.ldStVx (fieldX w))
  | 0x1E => .instr (.addI (fieldX w))
  | 0x29 => .instr (.ldF (fieldX w))
  | 0x33 => .instr (.ldB (fieldX w))
  | 0x55 => .instr (.storeRegs (fieldX w))
  | 0x65 => .instr (.loadRegs (fieldX w))
  | _ => .unrecognised (.familyF (fieldNN w))

/-- The decoder: the family first (R52, R53), then the selector of families 0, 8, E and F. It reads only the word (R66). -/
def decodeWord (w : Word) : Decoded :=
  match (family w).toNat with
  | 0x0 => decodeFamily0 w
  | 0x1 => .instr (.jp (fieldNNN w))
  | 0x2 => .instr (.call (fieldNNN w))
  | 0x3 => .instr (.seByte (fieldX w) (fieldNN w))
  | 0x4 => .instr (.sneByte (fieldX w) (fieldNN w))
  | 0x5 => .instr (.seReg (fieldX w) (fieldY w) (fieldN w))
  | 0x6 => .instr (.ldByte (fieldX w) (fieldNN w))
  | 0x7 => .instr (.addByte (fieldX w) (fieldNN w))
  | 0x8 => decodeFamily8 w
  | 0x9 => .instr (.sneReg (fieldX w) (fieldY w) (fieldN w))
  | 0xA => .instr (.ldI (fieldNNN w))
  | 0xB => .instr (.jpV0 (fieldNNN w))
  | 0xC => .instr (.rnd (fieldX w) (fieldNN w))
  | 0xD => .instr (.drw (fieldX w) (fieldY w) (fieldN w))
  | 0xE => decodeFamilyE w
  | _ => decodeFamilyF w   -- 0xF: the one family left

/-- The instruction word of two bytes: the byte at the lower address is bits 15:8 (R38). -/
def wordOfBytes (hi lo : Byte) : Word := hi ++ lo

/-- The byte a word stores at the lower address (R38). -/
def highByte (w : Word) : Byte := w.extractLsb' 8 8

/-- The byte a word stores at the higher address (R38). -/
def lowByte (w : Word) : Byte := w.extractLsb' 0 8

/-- The decoder on the two bytes of a word, lower address first; it always consumes exactly these two (R48). -/
def decodeBytes (hi lo : Byte) : Decoded := decodeWord (wordOfBytes hi lo)

/-! ### The encoder -/

/-- The four nibbles of a word, high to low (R7, R50). -/
def ofNibbles (f x y n : Nibble) : Word := f ++ x ++ y ++ n

/-- A register number as a field of a word (R14). -/
def regNibble (x : RegIdx) : Nibble := BitVec.ofFin x

/-- Formats XB and XS: family, X, low byte (R50). -/
def ofRegByte (f : Nibble) (x : RegIdx) (nn : Byte) : Word := f ++ regNibble x ++ nn

/-- Format A: family, NNN (R50). -/
def ofAddr (f : Nibble) (nnn : Addr12) : Word := f ++ nnn

/-- Formats XY and XYN: family, X, Y, low nibble (R50). -/
def ofRegs (f : Nibble) (x y : RegIdx) (n : Nibble) : Word :=
  ofNibbles f (regNibble x) (regNibble y) n

/-- The word of an instruction (R50, R60; spec/opcode_table.json). -/
def encode : Instr → Word
  | .sys nnn => ofAddr 0x0 nnn
  | .cls x => ofNibbles 0x0 x 0xE 0x0
  | .ret x => ofNibbles 0x0 x 0xE 0xE
  | .jp nnn => ofAddr 0x1 nnn
  | .call nnn => ofAddr 0x2 nnn
  | .seByte x nn => ofRegByte 0x3 x nn
  | .sneByte x nn => ofRegByte 0x4 x nn
  | .seReg x y n => ofRegs 0x5 x y n
  | .ldByte x nn => ofRegByte 0x6 x nn
  | .addByte x nn => ofRegByte 0x7 x nn
  | .ldReg x y => ofRegs 0x8 x y 0x0
  | .orReg x y => ofRegs 0x8 x y 0x1
  | .andReg x y => ofRegs 0x8 x y 0x2
  | .xorReg x y => ofRegs 0x8 x y 0x3
  | .addReg x y => ofRegs 0x8 x y 0x4
  | .sub x y => ofRegs 0x8 x y 0x5
  | .shr x y => ofRegs 0x8 x y 0x6
  | .subn x y => ofRegs 0x8 x y 0x7
  | .shl x y => ofRegs 0x8 x y 0xE
  | .sneReg x y n => ofRegs 0x9 x y n
  | .ldI nnn => ofAddr 0xA nnn
  | .jpV0 nnn => ofAddr 0xB nnn
  | .rnd x nn => ofRegByte 0xC x nn
  | .drw x y n => ofRegs 0xD x y n
  | .skp x => ofRegByte 0xE x 0x9E
  | .sknp x => ofRegByte 0xE x 0xA1
  | .ldVxDt x => ofRegByte 0xF x 0x07
  | .ldVxK x => ofRegByte 0xF x 0x0A
  | .ldDtVx x => ofRegByte 0xF x 0x15
  | .ldStVx x => ofRegByte 0xF x 0x18
  | .addI x => ofRegByte 0xF x 0x1E
  | .ldF x => ofRegByte 0xF x 0x29
  | .ldB x => ofRegByte 0xF x 0x33
  | .storeRegs x => ofRegByte 0xF x 0x55
  | .loadRegs x => ofRegByte 0xF x 0x65

/-! ### The table's rows and its numbering of bits -/

/-- Mask and match of the rows of spec/opcode_table.json for the families without a register selector, rows 1 to 10 of R60. -/
def tableRows1 : List (Word × Word) :=
  [(0xF000, 0x0000), (0xF0FF, 0x00E0), (0xF0FF, 0x00EE), (0xF000, 0x1000), (0xF000, 0x2000)] ++
  [(0xF000, 0x3000), (0xF000, 0x4000), (0xF000, 0x5000), (0xF000, 0x6000), (0xF000, 0x7000)]

/-- Mask and match of the rows 11 to 24 of R60. -/
def tableRows2 : List (Word × Word) :=
  [(0xF00F, 0x8000), (0xF00F, 0x8001), (0xF00F, 0x8002), (0xF00F, 0x8003), (0xF00F, 0x8004)] ++
  [(0xF00F, 0x8005), (0xF00F, 0x8006), (0xF00F, 0x8007), (0xF00F, 0x800E), (0xF000, 0x9000)] ++
  [(0xF000, 0xA000), (0xF000, 0xB000), (0xF000, 0xC000), (0xF000, 0xD000)]

/-- Mask and match of the rows 25 to 35 of R60. -/
def tableRows3 : List (Word × Word) :=
  [(0xF0FF, 0xE09E), (0xF0FF, 0xE0A1), (0xF0FF, 0xF007), (0xF0FF, 0xF00A), (0xF0FF, 0xF015)] ++
  [(0xF0FF, 0xF018), (0xF0FF, 0xF01E), (0xF0FF, 0xF029), (0xF0FF, 0xF033), (0xF0FF, 0xF055)] ++
  [(0xF0FF, 0xF065)]

/-- Mask and match of every row of spec/opcode_table.json, in its order (R60). The decoder does not use them: a law holds it
against them. -/
def tableRows : List (Word × Word) := tableRows1 ++ tableRows2 ++ tableRows3

/-- The word has the fixed bits of row `n` (numbered from 1, as in R60). Row 1, SYS, has the lowest priority. -/
def rowMatches (n : Nat) (w : Word) : Bool :=
  match tableRows[n - 1]? with
  | some (mask, fixed) => w &&& mask == fixed
  | none => false

/-- The number of an instruction's row (R60). -/
def Instr.rowNumber : Instr → Nat
  | .sys _ => 1
  | .cls _ => 2
  | .ret _ => 3
  | .jp _ => 4
  | .call _ => 5
  | .seByte _ _ => 6
  | .sneByte _ _ => 7
  | .seReg _ _ _ => 8
  | .ldByte _ _ => 9
  | .addByte _ _ => 10
  | .ldReg _ _ => 11
  | .orReg _ _ => 12
  | .andReg _ _ => 13
  | .xorReg _ _ => 14
  | .addReg _ _ => 15
  | .sub _ _ => 16
  | .shr _ _ => 17
  | .subn _ _ => 18
  | .shl _ _ => 19
  | .sneReg _ _ _ => 20
  | .ldI _ => 21
  | .jpV0 _ => 22
  | .rnd _ _ => 23
  | .drw _ _ _ => 24
  | .skp _ => 25
  | .sknp _ => 26
  | .ldVxDt _ => 27
  | .ldVxK _ => 28
  | .ldDtVx _ => 29
  | .ldStVx _ => 30
  | .addI _ => 31
  | .ldF _ => 32
  | .ldB _ => 33
  | .storeRegs _ => 34
  | .loadRegs _ => 35

/-- The instruction of a decoded word, if it is one. -/
def Decoded.toInstr : Decoded → Option Instr
  | .instr i => some i
  | .unrecognised _ => none

/-- The word whose lowest `nbits` bits are those of `w` and whose other bits are 0. -/
def tableWord (nbits w : Nat) : Word := BitVec.ofNat 16 (w % 2 ^ nbits)

/-- The instruction the decoder reads from a word given by the bits that spec/opcode_table.json numbers (bit 0 is the least
significant bit of the one word): the word is laid out high byte first (R38) and its two bytes are decoded. -/
def decodeTableWord (nbits w : Nat) : Option Instr :=
  (decodeBytes (highByte (tableWord nbits w)) (lowByte (tableWord nbits w))).toInstr

end Sys2Proof
end

