-- ==== Sys2Proof/Config.lean ====
section
/-! DEFINITION. What is fixed for the machine: the parameters of R5, and the two draws the spec leaves free (R10). -/

namespace Sys2Proof

/-- MEM_SIZE: 4096 bytes, addresses 0x000 to 0xFFF (R5, R34). -/
def Config.memSize : Nat := 4096

/-- PROGRAM_ORIGIN (R5). -/
def Config.programOrigin : Nat := 0x200

/-- FONT_BASE (R5, R36; the spec's decision D12; log 3). -/
def Config.fontBase : Nat := 0x000

/-- The glyphs of the digits 0 to 7, top row first (R36; log 2, PRESUMED: the spec supplies them from general knowledge). -/
def Config.fontLow : List Byte :=
  [0xF0, 0x90, 0x90, 0x90, 0xF0] ++ [0x20, 0x60, 0x20, 0x20, 0x70] ++
  [0xF0, 0x10, 0xF0, 0x80, 0xF0] ++ [0xF0, 0x10, 0xF0, 0x10, 0xF0] ++
  [0x90, 0x90, 0xF0, 0x10, 0x10] ++ [0xF0, 0x80, 0xF0, 0x10, 0xF0] ++
  [0xF0, 0x80, 0xF0, 0x90, 0xF0] ++ [0xF0, 0x10, 0x20, 0x40, 0x40]

/-- The glyphs of the digits 8 to F (R36; log 2, PRESUMED). -/
def Config.fontHigh : List Byte :=
  [0xF0, 0x90, 0xF0, 0x90, 0xF0] ++ [0xF0, 0x90, 0xF0, 0x10, 0xF0] ++
  [0xF0, 0x90, 0xF0, 0x90, 0x90] ++ [0xE0, 0x90, 0xE0, 0x90, 0xE0] ++
  [0xF0, 0x80, 0x80, 0x80, 0xF0] ++ [0xE0, 0x90, 0x90, 0x90, 0xE0] ++
  [0xF0, 0x80, 0xF0, 0x80, 0xF0] ++ [0xF0, 0x80, 0xF0, 0x80, 0x80]

/-- FONT_TABLE: 16 glyphs of 5 bytes (R36). The table is an argument of the model (R5, D13): `State.font` holds it, so that a
claim about every state is one about every table. -/
abbrev FontTable := Vector Byte 80

/-- The default of FONT_TABLE (R36; log 2). A claim that needs its bytes names this constant. -/
def Config.defaultFontTable : FontTable := ⟨⟨Config.fontLow ++ Config.fontHigh⟩, rfl⟩

/-- RANDOM: the byte that the n-th draw gives (R10, R84, D18). A FREE VALUE with no body: nothing constrains it, and a claim
holds for every value (log 4, safe). -/
opaque Config.draw8 : Nat → Byte

/-- KEY_SELECT: a number that picks the n-th drawn key from the pressed ones (R10, R110, D17). A FREE VALUE with no body: its
remainder by the number of pressed keys may be any (log 5, safe). -/
opaque Config.keySelect : Nat → Nat

end Sys2Proof
end

