-- ==== Sys2Proof/Machine/State.lean ====
section
/-! DEFINITION. The state of the engine as plain data: the tuple of 10_state.md, the reasons a step can stop, and the state
after reset (R32, R144). -/

namespace Sys2Proof.Machine

/-- Mem (R34), as the cells whose byte differs from the reset contents, addresses strictly rising (log 1). -/
abbrev Memory := List Host.Cell

/-- FB: 32 rows of 64 cells, true meaning lit (R26). -/
abbrev Framebuffer := Vector (Vector Bool 64) 32

/-- The fault reasons of R123. Each is raised by a meaning (or by the fetch) and recorded by the cycle in the field `fault`
(R70, R124). -/
inductive Fault where
  /-- Raised by the fetch, DXYN with N > 0, FX33, FX55 and FX65 when they would touch an address above 0xFFF; `addr` is the
  lowest such address (R37, R104). Safe: the spec itself stops the engine here and errs toward unprovable (D8). -/
  | memoryOutOfRange (addr : Nat)
  /-- Raised by EX9E and EXA1 when V[X] > 15; `value` is V[X] (R111). Safe: the spec itself stops the engine here (D16). -/
  | keyIndexOutOfRange (value : Byte)
  deriving DecidableEq, Repr

/-- Why there is no step. -/
inductive Refusal where
  /-- Raised by an arm of `exec` whose instruction has no meaning yet; none is left. Safe. -/
  | notModelled (mnemonic : String)
  /-- Raised by `step` when no program has been loaded: the spec gives cycle() no step then (R63, D20). Safe. -/
  | cycleWhileUnready
  /-- Raised by `step` after a fault has been recorded: the spec gives cycle() no step then (R63, R124). Safe. -/
  | cycleWhileFaulted
  deriving DecidableEq, Repr

/-- The complete state (10_state.md), with the parameter FONT_TABLE and the model's own counter of draws. -/
structure State where
  /-- Mem: 4096 bytes (R34). -/
  mem : Memory
  /-- V0 to VF; VF is register 15 and the flags register (R13, R15). -/
  v : Vector Byte 16
  /-- I, the index register (R18). -/
  i : Word
  /-- PC (R19). -/
  pc : Word
  /-- SP (R21). -/
  sp : Byte
  /-- S[0] to S[15], the return addresses (R22). -/
  stack : Vector Word 16
  /-- DT, the delay timer (R23). -/
  dt : Byte
  /-- ST, the sound timer (R24). -/
  st : Byte
  /-- K[0] to K[15], true when pressed (R25). -/
  keys : Vector Bool 16
  /-- FB (R26). -/
  fb : Framebuffer
  /-- The "program loaded" flag (R28). -/
  ready : Bool
  /-- `none`, or the recorded fault (R29). -/
  fault : Option Fault
  /-- The sticky marker of a stack bound violation (R31). -/
  stackMarker : Bool
  /-- FONT_TABLE, the argument of the model (R5, R36, D13). It is no register of the engine: nothing writes it, and init() copies
  it to memory (log 2). -/
  font : FontTable
  /-- THE MODEL'S OWN: how many draws have been made; it indexes the free values of Config (log 4). -/
  draws : Nat
  deriving DecidableEq, Repr

/-- The state after reset with the table `font` (R32, R144): no cell of memory differs from the reset contents, which hold the
table. The value of `draws` is the model's (log 4, DESIGN CHOICE). -/
def State.resetWith (font : FontTable) : State where
  mem := []
  v := Vector.replicate 16 0
  i := 0
  pc := BitVec.ofNat 16 Config.programOrigin
  sp := 0
  stack := Vector.replicate 16 0
  dt := 0
  st := 0
  keys := Vector.replicate 16 false
  fb := Vector.replicate 32 (Vector.replicate 64 false)
  ready := false
  fault := none
  stackMarker := false
  font := font
  draws := 0

/-- The state after reset with FONT_TABLE at its default (R5, R36; log 2). -/
def State.reset : State := State.resetWith Config.defaultFontTable

end Sys2Proof.Machine
end

