-- ==== Sys2Proof/Machine/Ops.lean ====
section
/-! DEFINITION. The named operations over memory, registers, stack, timers and framebuffer; raising and recording a fault, and
the way out of it (R126); the draws. -/

namespace Sys2Proof.Machine

/-- What executing an instruction answers. -/
abbrev Result := Host.Outcome State Fault Refusal

/-! ### Memory -/

/-- What an unlisted address reads as: the reset contents, FONT_TABLE at FONT_BASE and 0x00 elsewhere (R32, R35, R36; log 1). -/
def unlistedByte (font : FontTable) (a : Nat) : Byte :=
  if h : Config.fontBase ≤ a ∧ a < Config.fontBase + 80 then font.get ⟨a - Config.fontBase, by omega⟩ else 0

/-- MemRead(a, 1) (R9). -/
def Memory.read (font : FontTable) : Memory → Nat → Byte
  | [], a => unlistedByte font a
  | (a', b') :: m, a => if a = a' then b' else Memory.read font m a

/-- The cells without those of address `a`. -/
def Memory.erase (m : Memory) (a : Nat) : Memory := m.filter (fun c => c.1 != a)

/-- The cells with `(a, b)` in front of the first higher address. -/
def Memory.insert (a : Nat) (b : Byte) : Memory → Memory
  | [] => [(a, b)]
  | c :: m => if a < c.1 then (a, b) :: c :: m else c :: Memory.insert a b m

/-- MemWrite(a, 1, b) (R9), keeping the canonical form: a byte equal to what an unlisted `a` reads as is not listed. -/
def Memory.write (font : FontTable) (m : Memory) (a : Nat) (b : Byte) : Memory :=
  if b = unlistedByte font a then m.erase a else Memory.insert a b (m.erase a)

/-- Writes a block of bytes from `base` upward, one byte after the other (R104). -/
def Memory.writeBytes (font : FontTable) (m : Memory) (base : Nat) : List Byte → Memory
  | [] => m
  | b :: bs => Memory.writeBytes font (m.write font base b) (base + 1) bs

/-- The canonical form: addresses strictly rising and inside 0x000 to 0xFFF, no cell equal to what its address reads as when
unlisted. -/
abbrev Memory.wf (font : FontTable) (m : Memory) : Prop :=
  m.Pairwise (fun c d => c.1 < d.1) ∧ ∀ c ∈ m, c.1 < Config.memSize ∧ c.2 ≠ unlistedByte font c.1

/-- The byte at an address. -/
def State.readByte (s : State) (a : Nat) : Byte := s.mem.read s.font a

/-- Reads the `n` bytes from `base` upward (R104). -/
def State.readBytes (s : State) (base : Nat) : Nat → List Byte
  | 0 => []
  | n + 1 => s.readByte base :: s.readBytes (base + 1) n

/-- Writes a block of bytes from `base` upward. -/
def State.storeBytes (s : State) (base : Nat) (bs : List Byte) : State :=
  { s with mem := s.mem.writeBytes s.font base bs }

/-- CheckRange(base, n) for n ≥ 1 bytes (R104): goes on with `k` when all of base .. base + n - 1 lie in 0 .. 0xFFF, and else
raises MemoryOutOfRange with the lowest address above 0xFFF. The addresses are exact integers (R37). -/
def checkRange (base n : Nat) (k : Result) : Result :=
  if base + n ≤ Config.memSize then k else .fault (.memoryOutOfRange (max base Config.memSize))

/-! ### Registers -/

/-- V[x] (R13). -/
def State.readV (s : State) (x : RegIdx) : Byte := s.v.get x

/-- V[x] <- b (R13). -/
def State.writeV (s : State) (x : RegIdx) (b : Byte) : State := { s with v := s.v.set x b }

/-- The number of VF (R15). -/
def vf : RegIdx := 15

/-- I <- a. -/
def State.setI (s : State) (a : Word) : State := { s with i := a }

/-- pc <- a (R9). -/
def State.setPc (s : State) (a : Word) : State := { s with pc := a }

/-- DT <- b. -/
def State.setDt (s : State) (b : Byte) : State := { s with dt := b }

/-- ST <- b. -/
def State.setSt (s : State) (b : Byte) : State := { s with st := b }

/-- The fetch's own advance, PC <- PC + 2, before dispatch (R65). -/
def State.advancePc (s : State) : State := s.setPc (s.pc + 2)

/-- The registers V[0] to V[n-1] loaded from `base` upward, in the order of R103. -/
def State.loadRegisters (s : State) (base : Nat) : Nat → Vector Byte 16
  | 0 => s.v
  | n + 1 => (s.loadRegisters base n).setIfInBounds n (s.readByte (base + n))

/-! ### The stack -/

/-- `mark StackBoundExceeded` if `c` (R9, R31): sticky, and nothing else changes. -/
def State.markIf (s : State) (c : Bool) : State := { s with stackMarker := s.stackMarker || c }

/-- The slot number SP mod 16 (R22). -/
def stackSlot (sp : Byte) : Fin 16 := Fin.ofNat 16 sp.toNat

/-- A push (R90): marks at SP ≥ 16, writes slot SP mod 16, then increments SP modulo 256 (R22). -/
def State.push (s : State) (a : Word) : State :=
  let s := s.markIf (decide (16 ≤ s.sp.toNat))
  { s with stack := s.stack.set (stackSlot s.sp) a, sp := s.sp + 1 }

/-- A pop (R88): marks at SP = 0 or SP > 16, then decrements SP modulo 256; the slot is not cleared (R22). -/
def State.pop (s : State) : State :=
  let s := s.markIf (decide (s.sp.toNat = 0 ∨ 16 < s.sp.toNat))
  { s with sp := s.sp - 1 }

/-- The slot that SP names. -/
def State.topOfStack (s : State) : Word := s.stack.get (stackSlot s.sp)

/-! ### Control transfer -/

/-- Skip(): pc <- PC + 2, if `c` (R96). -/
def State.skipIf (s : State) (c : Bool) : State := if c then s.setPc (s.pc + 2) else s

/-! ### Draws (R10) -/

/-- A draw has been made. -/
def State.countDraw (s : State) : State := { s with draws := s.draws + 1 }

/-- draw8(): the byte of the next draw, free (log 4). -/
def State.nextByte (s : State) : Byte := Config.draw8 s.draws

/-- drawFrom(k :: ks): the next draw's member of a non-empty list, free among its members (log 5). -/
def State.nextChoice (s : State) (k : KeyIdx) (ks : List KeyIdx) : KeyIdx :=
  (k :: ks).getD (Config.keySelect s.draws % (ks.length + 1)) k

/-! ### Timers -/

/-- One countdown step, clamped at 0 (R23, R68). -/
def countDown (b : Byte) : Byte := if b = 0 then 0 else b - 1

/-- The timer tick (R68). -/
def State.tick (s : State) : State := { s with dt := countDown s.dt, st := countDown s.st }

/-! ### The framebuffer -/

/-- Every cell unlit. -/
def blankFb : Framebuffer := Vector.replicate 32 (Vector.replicate 64 false)

/-- FB[y][x]. -/
def Framebuffer.lit (fb : Framebuffer) (y : Fin 32) (x : Fin 64) : Bool := (fb.get y).get x

/-- FB[y][x] <- not FB[y][x]. -/
def Framebuffer.flip (fb : Framebuffer) (y : Fin 32) (x : Fin 64) : Framebuffer :=
  fb.set y ((fb.get y).set x (!fb.lit y x))

/-- Bit 7 - col of a sprite byte: bit 7 is column 0 (R118). -/
def spriteBit (b : Byte) (col : Nat) : Bool := b.getLsbD (7 - col)

/-- One turn of the inner loop of R115: the cell of sprite row `row`, column `col`, each axis wrapped on its own (R116); the
Boolean is the collision flag so far (R117). -/
def drawCell (x0 y0 : Byte) (row : Nat) (b : Byte) (acc : Framebuffer × Bool) (col : Nat) : Framebuffer × Bool :=
  let ty := Fin.ofNat 32 (y0.toNat + row)
  let tx := Fin.ofNat 64 (x0.toNat + col)
  if spriteBit b col then (acc.1.flip ty tx, acc.2 || acc.1.lit ty tx) else acc

/-- The inner loop of R115: the fixed 8 columns of one row. -/
def drawRow (x0 y0 : Byte) (row : Nat) (b : Byte) (acc : Framebuffer × Bool) : Framebuffer × Bool :=
  [0, 1, 2, 3, 4, 5, 6, 7].foldl (drawCell x0 y0 row b) acc

/-- The outer loop of R115: the rows from `row` downward. -/
def drawRows (x0 y0 : Byte) (row : Nat) : List Byte → Framebuffer × Bool → Framebuffer × Bool
  | [], acc => acc
  | b :: bs, acc => drawRows x0 y0 (row + 1) bs (drawRow x0 y0 row b acc)

/-- drawSprite(x0, y0, bytes) on `fb`: the framebuffer after, and the collision flag (R115). -/
def drawSprite (x0 y0 : Byte) (bytes : List Byte) (fb : Framebuffer) : Framebuffer × Bool :=
  drawRows x0 y0 0 bytes (fb, false)

/-! ### Faults and the engine's status -/

/-- Fault entry (R70, R124): the state at the start of the cycle with `fault` set. Nothing is saved and nothing is vectored; PC
still names the faulting word. -/
def State.recordFault (s : State) (r : Fault) : State := { s with fault := some r }

/-- init() (R144): the way out of the faulted state, and the only one (R126). It reloads the machine's FONT_TABLE. The model's
counter of draws goes on, so that a draw after it is fresh (log 4). -/
def State.init (s : State) : State := { State.resetWith s.font with draws := s.draws }

/-- The code the spec assigns to a fault reason (R123). -/
def Fault.code : Fault → Nat
  | .memoryOutOfRange _ => 1
  | .keyIndexOutOfRange _ => 2

/-- The three status conditions of R30. -/
inductive Status where
  | unready
  | running
  | faulted
  deriving DecidableEq, Repr

/-- The condition the engine is in (R30). A state that is both unready and faulted (a failed load after a fault) counts as
faulted (log 7). -/
def State.status (s : State) : Status :=
  if s.fault.isSome then .faulted else if s.ready then .running else .unready

end Sys2Proof.Machine
end

