-- ==== Sys2Proof/Machine/Flags.lean ====
section
/-! DEFINITION. The flag computations, and the one order in which an instruction writes VF and its destination (R15, R86). -/

namespace Sys2Proof.Machine

/-- 1 for true, 0 for false: what a flag write puts into VF. -/
def flagByte (c : Bool) : Byte := if c then 1 else 0

/-- Carry out of the exact sum (R79). -/
def carryOut (a b : Byte) : Bool := decide (255 < a.toNat + b.toNat)

/-- "No borrow": the minuend is strictly greater than the subtrahend (R80, R82). -/
def noBorrow (minuend subtrahend : Byte) : Bool := decide (subtrahend.toNat < minuend.toNat)

/-- The bit a right shift moves out: bit 0 (R81). -/
def shiftedOutRight (a : Byte) : Bool := a.getLsbD 0

/-- The bit a left shift moves out: bit 7 (R83). -/
def shiftedOutLeft (a : Byte) : Bool := a.getLsbD 7

/-- V[15] <- f (R15). -/
def State.setFlag (s : State) (c : Bool) : State := s.writeV vf (flagByte c)

/-- The flag first, then the destination, so that for X = 0xF the destination wins (R86). -/
def State.writeFlagThenV (s : State) (c : Bool) (x : RegIdx) (r : Byte) : State := (s.setFlag c).writeV x r

end Sys2Proof.Machine
end

