-- ==== Sys2Proof/Machine/Operands.lean ====
section
/-! DEFINITION. The operand forms: immediates, the addressing by I, the sprite and its origin, the key operand (R51, R104,
R111). -/

namespace Sys2Proof.Machine

/-- NNN as an address: zero-extended to 16 bits (R51). -/
def addrOperand (nnn : Addr12) : Word := nnn.setWidth 16

/-- A register value as a 16-bit addend: zero-extended (R8). -/
def wideOperand (b : Byte) : Word := b.setWidth 16

/-- The address of the byte 0 of a block: I as an exact integer (R104). -/
def State.blockBase (s : State) : Nat := s.i.toNat

/-- How many registers FX55 and FX65 move: X + 1 (R102, R103). -/
def regCount (x : RegIdx) : Nat := x.val + 1

/-- V[0] to V[x], in order (R102). -/
def State.regsUpTo (s : State) (x : RegIdx) : List Byte := s.v.toList.take (regCount x)

/-- The N sprite bytes from I upward; none, and no read, for N = 0 (R114, R119). -/
def State.spriteBytes (s : State) (n : Nibble) : List Byte := s.readBytes s.blockBase n.toNat

/-- The hundreds, tens and ones of a byte (R101). -/
def decimalDigits (a : Byte) : List Byte :=
  [BitVec.ofNat 8 (a.toNat / 100), BitVec.ofNat 8 (a.toNat / 10 % 10), BitVec.ofNat 8 (a.toNat % 10)]

/-- The address of the glyph of a digit: FONT_BASE + 5 a, the digit not masked (R100). -/
def glyphAddress (a : Byte) : Word := BitVec.ofNat 16 (Config.fontBase + a.toNat * 5)

/-- KeyCheck(a) (R111): goes on with the key numbered `a`, or raises KeyIndexOutOfRange for a > 15. -/
def checkKey (a : Byte) (k : KeyIdx → Result) : Result :=
  if h : a.toNat < 16 then k ⟨a.toNat, h⟩ else .fault (.keyIndexOutOfRange a)

/-- The sixteen keys. -/
def allKeys : List KeyIdx := [0, 1, 2, 3, 4, 5, 6, 7, 8, 9, 10, 11, 12, 13, 14, 15]

/-- K[k] (R25). -/
def State.pressed (s : State) (k : KeyIdx) : Bool := s.keys.get k

/-- P of R110: the keys pressed now. -/
def State.pressedKeys (s : State) : List KeyIdx := allKeys.filter s.pressed

end Sys2Proof.Machine
end

