-- ==== Sys2Proof/Machine/Arithmetic.lean ====
section
/-! DEFINITION. 41_arithmetic.md: 6XNN, 7XNN, 8XY0 to 8XY7, 8XYE, CXNN. Every meaning runs with PC already advanced (R65) and
reads its operands before it writes (R11). -/

namespace Sys2Proof.Machine

/-- LD Vx, byte (R73). -/
def execLdByte (x : RegIdx) (nn : Byte) (s : State) : Result := .next (s.writeV x nn)

/-- ADD Vx, byte (R74): no flag. -/
def execAddByte (x : RegIdx) (nn : Byte) (s : State) : Result := .next (s.writeV x (s.readV x + nn))

/-- LD Vx, Vy (R75). -/
def execLdReg (x y : RegIdx) (s : State) : Result := .next (s.writeV x (s.readV y))

/-- OR Vx, Vy (R76): VF is not reset. -/
def execOrReg (x y : RegIdx) (s : State) : Result := .next (s.writeV x (s.readV x ||| s.readV y))

/-- AND Vx, Vy (R77). -/
def execAndReg (x y : RegIdx) (s : State) : Result := .next (s.writeV x (s.readV x &&& s.readV y))

/-- XOR Vx, Vy (R78). -/
def execXorReg (x y : RegIdx) (s : State) : Result := .next (s.writeV x (s.readV x ^^^ s.readV y))

/-- ADD Vx, Vy (R79): the carry, then the sum. -/
def execAddReg (x y : RegIdx) (s : State) : Result :=
  .next (s.writeFlagThenV (carryOut (s.readV x) (s.readV y)) x (s.readV x + s.readV y))

/-- SUB Vx, Vy (R80): V[X] - V[Y]; the flag is strictly greater. -/
def execSub (x y : RegIdx) (s : State) : Result :=
  .next (s.writeFlagThenV (noBorrow (s.readV x) (s.readV y)) x (s.readV x - s.readV y))

/-- SHR Vx (R81): in place; Y is not read. -/
def execShr (x : RegIdx) (s : State) : Result :=
  .next (s.writeFlagThenV (shiftedOutRight (s.readV x)) x (s.readV x >>> 1))

/-- SUBN Vx, Vy (R82): V[Y] - V[X]. -/
def execSubn (x y : RegIdx) (s : State) : Result :=
  .next (s.writeFlagThenV (noBorrow (s.readV y) (s.readV x)) x (s.readV y - s.readV x))

/-- SHL Vx (R83): in place; Y is not read. -/
def execShl (x : RegIdx) (s : State) : Result :=
  .next (s.writeFlagThenV (shiftedOutLeft (s.readV x)) x (s.readV x <<< 1))

/-- RND Vx, byte (R84): a fresh free byte, masked (log 4). -/
def execRnd (x : RegIdx) (nn : Byte) (s : State) : Result := .next (s.countDraw.writeV x (s.nextByte &&& nn))

end Sys2Proof.Machine
end

