-- ==== Sys2Proof/Machine/ControlFlow.lean ====
section
/-! DEFINITION. 42_control_flow.md: 0NNN, 00EE, 1NNN, 2NNN, 3XNN, 4XNN, 5XY0, 9XY0, BNNN, and the unrecognised word (R58).
On entry PC is the address of the next word (R65). -/

namespace Sys2Proof.Machine

/-- A word that decodes to no operation changes nothing in its execute step (R58; log 9). -/
def execUnrecognised (s : State) : Result := .next s

/-- SYS addr (R87): no effect. -/
def execSys (s : State) : Result := .next s

/-- RET (R88). -/
def execRet (s : State) : Result := .next (s.pop.setPc s.pop.topOfStack)

/-- JP addr (R89). -/
def execJp (nnn : Addr12) (s : State) : Result := .next (s.setPc (addrOperand nnn))

/-- CALL addr (R90): PC is the return address. -/
def execCall (nnn : Addr12) (s : State) : Result := .next ((s.push s.pc).setPc (addrOperand nnn))

/-- SE Vx, byte (R91). -/
def execSeByte (x : RegIdx) (nn : Byte) (s : State) : Result := .next (s.skipIf (s.readV x == nn))

/-- SNE Vx, byte (R92). -/
def execSneByte (x : RegIdx) (nn : Byte) (s : State) : Result := .next (s.skipIf (s.readV x != nn))

/-- SE Vx, Vy (R93). -/
def execSeReg (x y : RegIdx) (s : State) : Result := .next (s.skipIf (s.readV x == s.readV y))

/-- SNE Vx, Vy (R94). -/
def execSneReg (x y : RegIdx) (s : State) : Result := .next (s.skipIf (s.readV x != s.readV y))

/-- JP V0, addr (R95): the sum is not reduced modulo 4096. -/
def execJpV0 (nnn : Addr12) (s : State) : Result :=
  .next (s.setPc (addrOperand nnn + wideOperand (s.readV 0)))

end Sys2Proof.Machine
end

