-- ==== Sys2Proof/Machine/Display.lean ====
section
/-! DEFINITION. 45_display.md: 00E0 and DXYN. -/

namespace Sys2Proof.Machine

/-- CLS (R113): VF is not written. -/
def execCls (s : State) : Result := .next { s with fb := blankFb }

/-- The state after a sprite has been drawn: the framebuffer, and VF from the collision flag (R114). -/
def State.drawn (s : State) (p : Framebuffer × Bool) : State := { s with fb := p.1 }.setFlag p.2

/-- What DXYN draws: its origin and its bytes are read before VF is written (R114, R120). -/
def State.spriteDrawn (s : State) (x y : RegIdx) (n : Nibble) : Framebuffer × Bool :=
  drawSprite (s.readV x) (s.readV y) (s.spriteBytes n) s.fb

/-- DRW Vx, Vy, nibble (R114): with N = 0 nothing is read or drawn, and VF <- 0 (R119). -/
def execDrw (x y : RegIdx) (n : Nibble) (s : State) : Result :=
  if n = 0 then .next (s.drawn (s.spriteDrawn x y n))
  else checkRange s.blockBase n.toNat (.next (s.drawn (s.spriteDrawn x y n)))

end Sys2Proof.Machine
end

