-- ==== Sys2Proof/Machine/IndexMemory.lean ====
section
/-! DEFINITION. 43_memory_access.md: ANNN, FX1E, FX29, FX33, FX55, FX65. The whole range is checked before any effect (R104);
I is left unmodified. -/

namespace Sys2Proof.Machine

/-- LD I, addr (R98). -/
def execLdI (nnn : Addr12) (s : State) : Result := .next (s.setI (addrOperand nnn))

/-- ADD I, Vx (R99): modulo 2^16, no flag. -/
def execAddI (x : RegIdx) (s : State) : Result := .next (s.setI (s.i + wideOperand (s.readV x)))

/-- LD F, Vx (R100). -/
def execLdF (x : RegIdx) (s : State) : Result := .next (s.setI (glyphAddress (s.readV x)))

/-- LD B, Vx (R101). -/
def execLdB (x : RegIdx) (s : State) : Result :=
  checkRange s.blockBase 3 (.next (s.storeBytes s.blockBase (decimalDigits (s.readV x))))

/-- LD [I], Vx (R102). -/
def execStoreRegs (x : RegIdx) (s : State) : Result :=
  checkRange s.blockBase (regCount x) (.next (s.storeBytes s.blockBase (s.regsUpTo x)))

/-- LD Vx, [I] (R103). -/
def execLoadRegs (x : RegIdx) (s : State) : Result :=
  checkRange s.blockBase (regCount x) (.next { s with v := s.loadRegisters s.blockBase (regCount x) })

end Sys2Proof.Machine
end

