-- ==== Sys2Proof/Machine/TimersKeys.lean ====
section
/-! DEFINITION. 44_timers_input.md: FX07, FX15, FX18, EX9E, EXA1, FX0A. The cycle's tick follows (R68). -/

namespace Sys2Proof.Machine

/-- LD Vx, DT (R105). -/
def execLdVxDt (x : RegIdx) (s : State) : Result := .next (s.writeV x s.dt)

/-- LD DT, Vx (R106). -/
def execLdDtVx (x : RegIdx) (s : State) : Result := .next (s.setDt (s.readV x))

/-- LD ST, Vx (R107). -/
def execLdStVx (x : RegIdx) (s : State) : Result := .next (s.setSt (s.readV x))

/-- SKP Vx (R108). -/
def execSkp (x : RegIdx) (s : State) : Result := checkKey (s.readV x) fun k => .next (s.skipIf (s.pressed k))

/-- SKNP Vx (R109). -/
def execSknp (x : RegIdx) (s : State) : Result := checkKey (s.readV x) fun k => .next (s.skipIf (!s.pressed k))

/-- LD Vx, K (R110): with no key pressed PC goes back to this word, which runs again next cycle (R112); else a free choice
among the pressed keys (log 5). -/
def execLdVxK (x : RegIdx) (s : State) : Result :=
  match s.pressedKeys with
  | [] => .next (s.setPc (s.pc - 2))
  | k :: ks => .next (s.countDraw.writeV x (BitVec.ofNat 8 (s.nextChoice k ks).val))

end Sys2Proof.Machine
end

