-- ==== Sys2Proof/Machine/Cycle.lean ====
section
/-! DEFINITION. 40_cycle.md: the fetch, and the whole cycle as one function of the state (R63 to R72). -/

namespace Sys2Proof.Machine

/-- The two bytes at PC and PC + 1, the lower address first (R38, R40). -/
def State.codeBytes (s : State) : Byte × Byte := (s.readByte s.pc.toNat, s.readByte (s.pc.toNat + 1))

/-- The word the fetch combines from them, big-endian (R40). -/
def State.codeWord (s : State) : Word := wordOfBytes s.codeBytes.1 s.codeBytes.2

/-- What the word at PC decodes to (R66). -/
def State.nextDecoded (s : State) : Decoded := decodeBytes s.codeBytes.1 s.codeBytes.2

/-- Execute(op, w) (R67): the instruction's meaning, or the no-op of an unrecognised word. -/
def execDecoded (d : Decoded) (s : State) : Result :=
  match d with
  | .instr i => exec i s
  | .unrecognised _ => execUnrecognised s

/-- Fetch, advance, decode, execute (R64 to R67): the check of PC and PC + 1 comes first (R128), and every execute step sees PC
advanced by 2. -/
def fetchAndExecute (s : State) : Result :=
  checkRange s.pc.toNat 2 (execDecoded s.nextDecoded s.advancePc)

/-- How the cycle that started in `s` ends (R68, R70): after execute the timers tick; a raised fault is recorded in the state
the cycle started with, and nothing else of the cycle remains (log 6). -/
def endCycle (s : State) (r : Result) : Result :=
  match r with
  | .next t => .next t.tick
  | .fault f => .next (s.recordFault f)
  | .refused q => .refused q

/-- cycle() (R63, R69): it has a step only in the running condition. -/
def cycle (s : State) : Result :=
  match s.status with
  | .running => endCycle s (fetchAndExecute s)
  | .unready => .refused .cycleWhileUnready
  | .faulted => .refused .cycleWhileFaulted

/-- A word stored at PC in the machine's byte order (R38), in a machine made running: what a successful load leaves for the next
cycle (R145, R147; log 10). Nothing is stored where no cycle can fetch, above PC = 0xFFE. -/
def placeWord (s : State) (w : Word) : State :=
  if s.pc.toNat + 2 ≤ Config.memSize then
    { s.storeBytes s.pc.toNat [highByte w, lowByte w] with ready := true, fault := none }
  else s

end Sys2Proof.Machine
end

