-- ==== Sys2Proof/Machine/Step.lean ====
section
/-! DEFINITION. The engine's one step is one whole cycle (R6, R63). -/

namespace Sys2Proof.Machine

/-- One step (R63, R69). -/
def step (s : State) : Host.Outcome State Fault Refusal := cycle s

/-- `s` with the instruction whose bits the table numbers in `w` stored where `step` fetches next, and running (log 10). -/
def State.withFetchWord (s : State) (nbits w : Nat) : State := placeWord s (tableWord nbits w)

end Sys2Proof.Machine
end

