-- ==== Sys2Proof/Machine/HostApi.lean ====
section
/-! DEFINITION. The host's calls of R137, each a function of the state that runs between cycles (R44; log 11). -/

namespace Sys2Proof.Machine

/-- What loadProgram reports to the host (R145, R146). -/
inductive LoadResult where
  | success
  | capacityExceeded
  deriving DecidableEq, Repr

/-- The image fits: its length and PROGRAM_ORIGIN together are at most 4096 (R146). -/
def imageFits (bytes : List Byte) : Bool := decide (bytes.length + Config.programOrigin ≤ Config.memSize)

/-- loadProgram(bytes) (R145, R146): copies the image to 0x200 and makes the engine ready, or writes nothing and leaves it
unready. -/
def loadProgram (bytes : List Byte) (s : State) : LoadResult × State :=
  if imageFits bytes then (.success, { s.storeBytes Config.programOrigin bytes with ready := true })
  else (.capacityExceeded, { s with ready := false })

/-- setKey(k, pressed) (R137, R138). -/
def setKey (k : KeyIdx) (pressed : Bool) (s : State) : State := { s with keys := s.keys.set k pressed }

/-- The calls of R137 other than cycle(). -/
inductive HostCall where
  | init
  | loadProgram (bytes : List Byte)
  | isReady
  | setKey (k : KeyIdx) (pressed : Bool)
  | readFramebuffer
  | readSoundTimer
  | faultStatus
  deriving DecidableEq, Repr

/-- What the host gets back (R137). -/
inductive HostReply where
  | nothing
  | load (r : LoadResult)
  | ready (b : Bool)
  | framebuffer (fb : Framebuffer)
  | soundTimer (b : Byte)
  | fault (r : Option Fault)
  deriving DecidableEq, Repr

/-- One host call: its reply and the state after it (R137). A read changes nothing (R139, R140). -/
def hostCall (c : HostCall) (s : State) : HostReply × State :=
  match c with
  | .init => (.nothing, s.init)
  | .loadProgram bytes => (.load (Machine.loadProgram bytes s).1, (Machine.loadProgram bytes s).2)
  | .isReady => (.ready s.ready, s)
  | .setKey k p => (.nothing, Machine.setKey k p s)
  | .readFramebuffer => (.framebuffer s.fb, s)
  | .readSoundTimer => (.soundTimer s.st, s)
  | .faultStatus => (.fault s.fault, s)

/-- What can happen to the machine: a cycle, or a host call between cycles (R6, R44). -/
inductive Move where
  | cycle
  | call (c : HostCall)
  deriving DecidableEq, Repr

/-- One move. -/
def move (m : Move) (s : State) : Result :=
  match m with
  | .cycle => step s
  | .call c => .next (hostCall c s).2

end Sys2Proof.Machine
end

