-- ==== Sys2Proof/Safety.lean ====
section
/-! DEFINITION. The terms claims are stated in: which parts of a state stay as they were, what each instruction may change and
reads, what a sprite covers, the invariant, and what a safe run is. -/

namespace Sys2Proof.Machine

/-! ### Frames -/

/-- The pieces of the state (10_state.md; the parameter FONT_TABLE, R5; the model's counter of draws). -/
inductive Part where
  | mem | v | i | pc | sp | stack | dt | st | keys | fb | ready | fault | stackMarker | font | draws
  deriving DecidableEq, Repr

/-- One piece is the same in both states; memory and the arrays are compared element by element, through the model's reads. -/
def Part.same (s t : State) : Part → Prop
  | .mem => ∀ a, t.readByte a = s.readByte a
  | .v => ∀ k, t.readV k = s.readV k
  | .i => t.i = s.i
  | .pc => t.pc = s.pc
  | .sp => t.sp = s.sp
  | .stack => ∀ k, t.stack.get k = s.stack.get k
  | .dt => t.dt = s.dt
  | .st => t.st = s.st
  | .keys => ∀ k, t.pressed k = s.pressed k
  | .fb => ∀ y x, t.fb.lit y x = s.fb.lit y x
  | .ready => t.ready = s.ready
  | .fault => t.fault = s.fault
  | .stackMarker => t.stackMarker = s.stackMarker
  | .font => t.font = s.font
  | .draws => t.draws = s.draws

/-- Every piece is the same, but perhaps those listed. -/
def UnchangedExcept (changed : List Part) (s t : State) : Prop := ∀ p, p ∉ changed → p.same s t

/-- Every general register is the same, but perhaps those listed. -/
def RegsUnchangedExcept (changed : List RegIdx) (s t : State) : Prop := ∀ k, k ∉ changed → t.readV k = s.readV k

/-- Every byte of memory outside base .. base + n - 1 reads as before. -/
def BytesUnchangedOutside (base n : Nat) (s t : State) : Prop :=
  ∀ a, a < base ∨ base + n ≤ a → t.readByte a = s.readByte a

/-- Two results are of the same kind: next states related by `R`, or the same fault, or the same refusal. -/
def SameOutcome (R : State → State → Prop) : Result → Result → Prop
  | .next s, .next t => R s t
  | .fault f, .fault g => f = g
  | .refused q, .refused r => q = r
  | _, _ => False

end Sys2Proof.Machine

namespace Sys2Proof

/-! ### What each instruction may change, and which registers it reads -/

/-- The pieces an instruction may change in its execute step (R16, R18, R19, R21 to R26). -/
def Instr.changes : Instr → List Machine.Part
  | .sys _ => []
  | .cls _ => [.fb]
  | .ret _ => [.pc, .sp, .stackMarker]
  | .call _ => [.pc, .sp, .stack, .stackMarker]
  | .jp _ | .jpV0 _ => [.pc]
  | .seByte _ _ | .sneByte _ _ | .seReg _ _ _ | .sneReg _ _ _ | .skp _ | .sknp _ => [.pc]
  | .ldByte _ _ | .addByte _ _ | .ldReg _ _ | .orReg _ _ | .andReg _ _ | .xorReg _ _ => [.v]
  | .addReg _ _ | .sub _ _ | .shr _ _ | .subn _ _ | .shl _ _ => [.v]
  | .rnd _ _ => [.v, .draws]
  | .ldI _ | .addI _ | .ldF _ => [.i]
  | .drw _ _ _ => [.v, .fb]
  | .ldVxDt _ | .loadRegs _ => [.v]
  | .ldVxK _ => [.v, .pc, .draws]
  | .ldDtVx _ => [.dt]
  | .ldStVx _ => [.st]
  | .ldB _ | .storeRegs _ => [.mem]

/-- The register is a destination of the instruction, VF as a flag among them (R15, R16). -/
def Instr.writesReg (r : RegIdx) : Instr → Bool
  | .ldByte x _ | .addByte x _ | .ldReg x _ | .orReg x _ | .andReg x _ | .xorReg x _ => r == x
  | .rnd x _ | .ldVxDt x | .ldVxK x => r == x
  | .addReg x _ | .sub x _ | .shr x _ | .subn x _ | .shl x _ => r == x || r == Machine.vf
  | .drw _ _ _ => r == Machine.vf
  | .loadRegs x => decide (r ≤ x)
  | .sys _ | .cls _ | .ret _ | .jp _ | .call _ | .jpV0 _ => false
  | .seByte _ _ | .sneByte _ _ | .seReg _ _ _ | .sneReg _ _ _ | .skp _ | .sknp _ => false
  | .ldI _ | .addI _ | .ldF _ | .ldDtVx _ | .ldStVx _ | .ldB _ | .storeRegs _ => false

/-- The register is a source of the instruction (R17; V0 of BNNN, R95; V0 to V[X] of FX55, R102). -/
def Instr.readsReg (r : RegIdx) : Instr → Bool
  | .addByte x _ | .seByte x _ | .sneByte x _ | .shr x _ | .shl x _ => r == x
  | .ldReg _ y => r == y
  | .orReg x y | .andReg x y | .xorReg x y | .addReg x y | .sub x y | .subn x y => r == x || r == y
  | .seReg x y _ | .sneReg x y _ | .drw x y _ => r == x || r == y
  | .skp x | .sknp x | .ldDtVx x | .ldStVx x | .addI x | .ldF x | .ldB x => r == x
  | .jpV0 _ => r == 0
  | .storeRegs x => decide (r ≤ x)
  | .sys _ | .cls _ | .ret _ | .jp _ | .call _ | .ldByte _ _ | .ldI _ | .rnd _ _ => false
  | .ldVxDt _ | .ldVxK _ | .loadRegs _ => false

end Sys2Proof

namespace Sys2Proof.Machine

/-! ### Sprites -/

/-- Some 1 bit of the sprite has the cell as its target: the bit of row `r`, column `c` targets row y0 + r modulo 32 and column
x0 + c modulo 64 (R116, R118). -/
def SpriteCovers (x0 y0 : Byte) (bytes : List Byte) (y : Fin 32) (x : Fin 64) : Prop :=
  ∃ r c, r < bytes.length ∧ c < 8 ∧ (bytes.getD r 0).getLsbD (7 - c) = true ∧
    y.val = (y0.toNat + r) % 32 ∧ x.val = (x0.toNat + c) % 64

/-! ### The invariant -/

/-- A recorded reason says what R123 says it records. -/
def Fault.sound : Fault → Prop
  | .memoryOutOfRange a => 0x1000 ≤ a ∧ a ≤ 0xFFFF
  | .keyIndexOutOfRange k => 15 < k.toNat

/-- What holds at reset and is kept by every step and every host call: memory in canonical form; PC at most 0x10FE and every
return address at most 0x1000 (R19); SP at most 16 unless the marker is set (R21, R31); a recorded fault of the form of R123. -/
structure State.Inv (s : State) : Prop where
  mem : s.mem.wf s.font
  pc : s.pc.toNat ≤ 0x10FE
  stack : ∀ k, (s.stack.get k).toNat ≤ 0x1000
  sp : s.stackMarker = false → s.sp.toNat ≤ 16
  fault : ∀ f, s.fault = some f → f.sound

/-! ### Runs -/

/-- A sequence of moves, stopping at the first that has none (R6, R44). -/
def runMoves : List Move → State → Result
  | [], s => .next s
  | m :: ms, s =>
    match move m s with
    | .next t => runMoves ms t
    | .fault f => .fault f
    | .refused q => .refused q

/-- A state of a safe run: no fault is recorded (R124) and the stack bound was never exceeded (R31). -/
def State.safe (s : State) : Prop := s.fault = none ∧ s.stackMarker = false

end Sys2Proof.Machine
end

