-- ==== Sys2Proof/Certificates/Slice0/Obligations.lean ====
section
/-! DEFINITION. The statements for the provers. "The spec's own D<n>" names a row of spec/92_eei_decisions.md; "log <n>" a file of
notes/assumptions/. -/

open Sys2Proof Sys2Proof.Machine

/-! ## Decoding and encoding -/

/-- Every well-formed instruction, with every operand at every value, decodes from its word (30_encoding.md; the field places and
selectors are the spec's, marked by it as general knowledge and D5 to D7). -/
def Obligations.DecodeOfEncode : Prop :=
  ∀ i : Instr, i.wf = true → decodeWord (encode i) = .instr i

/-- The other direction: a word that decodes to an instruction is that instruction's word, unexamined bits included (log 8), and the
instruction is well-formed. -/
def Obligations.EncodeOfDecode : Prop :=
  ∀ (w : Word) (i : Instr), decodeWord w = .instr i → encode i = w ∧ i.wf = true

/-- The decoder and the masks and matches of opcode_table.json agree: a decoded word has its row's fixed bits, and a word with the
fixed bits of a row decodes to an instruction of that row, SYS (row 1) last of all. -/
def Obligations.DecoderFollowsTheTable : Prop :=
  (∀ (w : Word) (i : Instr), decodeWord w = .instr i → rowMatches i.rowNumber w = true) ∧
  (∀ (w : Word) (n : Nat), 2 ≤ n → n ≤ 35 → rowMatches n w = true →
    ∃ i, decodeWord w = .instr i ∧ i.rowNumber = n) ∧
  (∀ w : Word, rowMatches 1 w = true → rowMatches 2 w = false → rowMatches 3 w = false →
    ∃ i, decodeWord w = .instr i ∧ i.rowNumber = 1)

/-- The unrecognised words, family by family (30_encoding.md, the selector tables; the spec's own D5). -/
def Obligations.UnrecognisedWordsAreExactlyThese : Prop :=
  ∀ w : Word, (∃ u, decodeWord w = .unrecognised u) ↔
    (family w = 0x8 ∧ 8 ≤ (fieldN w).toNat ∧ fieldN w ≠ 0xE) ∨
    (family w = 0xE ∧ fieldNN w ≠ 0x9E ∧ fieldNN w ≠ 0xA1) ∨
    (family w = 0xF ∧ fieldNN w ∉ ([0x07, 0x0A, 0x15, 0x18, 0x1E, 0x29, 0x33, 0x55, 0x65] : List Byte))

/-- Words written out from the encodings of 30_encoding.md, some of them examples of the spec, and what they stand for: twenty that are
instructions, at least one of each of the sixteen families, and 0x8008, which is none. The encodings are the spec's general knowledge
(log 24); 0x01E0 and 0x0FEE rest on its own D5, 0x5121 and 0x912F on its own D6 (log 14). -/
def Obligations.SampleWordsDecode : Prop :=
  decodeWord 0x6005 = .instr (.ldByte 0 0x05) ∧ decodeWord 0x6105 = .instr (.ldByte 1 0x05) ∧
  decodeWord 0x0123 = .instr (.sys 0x123) ∧ decodeWord 0x01E0 = .instr (.cls 1) ∧
  decodeWord 0x0FEE = .instr (.ret 0xF) ∧ decodeWord 0x1234 = .instr (.jp 0x234) ∧
  decodeWord 0x3A05 = .instr (.seByte 0xA 0x05) ∧ decodeWord 0x4B06 = .instr (.sneByte 0xB 0x06) ∧
  decodeWord 0x5121 = .instr (.seReg 1 2 1) ∧ decodeWord 0x7325 = .instr (.addByte 3 0x25) ∧
  decodeWord 0xA2F0 = .instr (.ldI 0x2F0) ∧ decodeWord 0xC081 = .instr (.rnd 0 0x81) ∧
  decodeWord 0x2400 = .instr (.call 0x400) ∧
  decodeWord 0x912F = .instr (.sneReg 1 2 0xF) ∧ decodeWord 0x8236 = .instr (.shr 2 3) ∧
  decodeWord 0xB300 = .instr (.jpV0 0x300) ∧ decodeWord 0xDF11 = .instr (.drw 0xF 1 1) ∧
  decodeWord 0xE4A1 = .instr (.sknp 4) ∧ decodeWord 0xF30A = .instr (.ldVxK 3) ∧
  decodeWord 0xF265 = .instr (.loadRegs 2) ∧ decodeWord 0x8008 = .unrecognised (.family8 8)

/-! ## The cycle -/

/-- 40_cycle.md: a running engine whose word is in range runs the instruction the two bytes at PC decode to, in the state with PC
advanced by 2. Around it the cycle ticks the timers, or records a fault in the state it started with (the spec's own D8; log 6). -/
def Obligations.StepRunsTheDecodedInstruction : Prop :=
  ∀ (s : State) (i : Instr), s.ready = true → s.fault = none → s.pc.toNat + 2 ≤ 0x1000 →
    decodeWord (wordOfBytes (s.readByte s.pc.toNat) (s.readByte (s.pc.toNat + 1))) = .instr i →
    step s = match exec i (s.setPc (s.pc + 2)) with
      | .next t => .next t.tick
      | .fault f => .next (s.recordFault f)
      | .refused q => .refused q

/-- The fetched word is big-endian: the byte at PC is bits 15:8 (20_memory.md, byte order and the fetch primitive). -/
def Obligations.FetchIsBigEndian : Prop :=
  ∀ s : State, s.codeWord.toNat = 256 * (s.readByte s.pc.toNat).toNat + (s.readByte (s.pc.toNat + 1)).toNat ∧
    s.nextDecoded = decodeWord s.codeWord

/-- The advance by 2 comes before dispatch (40_cycle.md); what execute then leaves in PC stands. In order: the state execute sees; its PC is
the cycle's; JP, CALL, JP V0 and RET overwrite PC, whatever it was, JP and CALL by NNN and RET by the slot below SP; FX0A with no
key puts the fetched word's address there; each of the six skips adds 2 more when it is taken; an instruction that writes no PC, an
unrecognised word and an FX0A that finds a key leave the advanced PC. The targets and the skip conditions are those of
42_control_flow.md and 44_timers_input.md, the spec's general knowledge (log 24); RET at every X is its own D5, and SE and SNE of two
registers at every low nibble its own D6 (log 14). -/
def Obligations.PcAdvancesBeforeDispatch : Prop :=
  (∀ (s : State), s.ready = true → s.fault = none → s.pc.toNat + 2 ≤ 0x1000 →
    ∃ t, t.pc = s.pc + 2 ∧ UnchangedExcept [.pc] s t ∧ step s = endCycle s (execDecoded s.nextDecoded t)) ∧
  (∀ (s t : State), step s = .next t → t.fault = none →
    ∃ u, execDecoded s.nextDecoded (s.setPc (s.pc + 2)) = .next u ∧ t.pc = u.pc) ∧
  (∀ (i : Instr) (s : State) (a : Word), ((∃ nnn, i = .jp nnn ∨ i = .call nnn ∨ i = .jpV0 nnn) ∨ ∃ x, i = .ret x) →
    ∃ t u, exec i s = .next t ∧ exec i (s.setPc a) = .next u ∧ u.pc = t.pc) ∧
  (∀ (s t : State), step s = .next t → t.fault = none →
    (∀ nnn, (s.nextDecoded = .instr (.jp nnn) ∨ s.nextDecoded = .instr (.call nnn)) → t.pc.toNat = nnn.toNat) ∧
    (∀ (x : Nibble) (k : Fin 16), s.nextDecoded = .instr (.ret x) → s.sp.toNat = k.val + 1 → t.pc = s.stack.get k) ∧
    (∀ x, s.nextDecoded = .instr (.ldVxK x) → t.pc = if (∃ k, s.pressed k = true) then s.pc + 2 else s.pc) ∧
    (∀ x nn, s.nextDecoded = .instr (.seByte x nn) → t.pc = if s.readV x = nn then s.pc + 4 else s.pc + 2) ∧
    (∀ x nn, s.nextDecoded = .instr (.sneByte x nn) → t.pc = if s.readV x = nn then s.pc + 2 else s.pc + 4) ∧
    (∀ x y n, s.nextDecoded = .instr (.seReg x y n) → t.pc = if s.readV x = s.readV y then s.pc + 4 else s.pc + 2) ∧
    (∀ x y n, s.nextDecoded = .instr (.sneReg x y n) → t.pc = if s.readV x = s.readV y then s.pc + 2 else s.pc + 4) ∧
    (∀ (x : RegIdx) (k : KeyIdx), (s.readV x).toNat = k.val →
      (s.nextDecoded = .instr (.skp x) → t.pc = if s.pressed k = true then s.pc + 4 else s.pc + 2) ∧
      (s.nextDecoded = .instr (.sknp x) → t.pc = if s.pressed k = true then s.pc + 2 else s.pc + 4)) ∧
    ((∀ i, s.nextDecoded = .instr i → Part.pc ∉ i.changes) → t.pc = s.pc + 2))

/-- R68: after execute both timers tick, whatever was executed; the tick acts on what the instruction has just written. -/
def Obligations.TimersTickOncePerCycle : Prop :=
  ∀ (s u : State), s.ready = true → s.fault = none → s.pc.toNat + 2 ≤ 0x1000 →
    execDecoded s.nextDecoded (s.setPc (s.pc + 2)) = .next u →
    ∃ t, step s = .next t ∧ t.dt = (if u.dt ≠ 0 then u.dt - 1 else u.dt) ∧
      t.st = (if u.st ≠ 0 then u.st - 1 else u.st) ∧ UnchangedExcept [.dt, .st] u t

/-- R58: an unrecognised word changes nothing but PC, by 2, and the timers, by their tick; it raises no fault. -/
def Obligations.UnrecognisedWordIsNoOp : Prop :=
  ∀ (s : State) (u : Unrecognised), s.ready = true → s.fault = none → s.pc.toNat + 2 ≤ 0x1000 →
    s.nextDecoded = .unrecognised u →
    ∃ t, step s = .next t ∧ t.pc = s.pc + 2 ∧ t.dt.toNat = s.dt.toNat - 1 ∧ t.st.toNat = s.st.toNat - 1 ∧
      t.fault = none ∧ UnchangedExcept [.pc, .dt, .st] s t

/-- A fetch past the end of memory faults with the lowest address outside it; nothing else changes (20_memory.md, the fetch
primitive; the spec's own D8). -/
def Obligations.FetchOutOfRangeFaults : Prop :=
  ∀ s : State, s.ready = true → s.fault = none → 0xFFE < s.pc.toNat →
    ∃ t, step s = .next t ∧
      t.fault = some (.memoryOutOfRange (if 0xFFF < s.pc.toNat then s.pc.toNat else s.pc.toNat + 1)) ∧
      UnchangedExcept [.fault] s t

/-- A cycle that faults has no effect but the record of the fault, and no cycle follows it (40_cycle.md, 60_exceptions.md fault
entry; the spec's own D8 and D24). -/
def Obligations.FaultingCycleHasNoOtherEffect : Prop :=
  ∀ s t : State, step s = .next t → t.fault ≠ none →
    UnchangedExcept [.fault] s t ∧ step t = .refused .cycleWhileFaulted

/-- A cycle has a step exactly when the engine is running, and is refused by name otherwise (40_cycle.md; the spec's own D20; for a
state both unready and faulted the name is the model's choice, log 7). -/
def Obligations.CycleStepsExactlyWhenRunning : Prop :=
  ∀ s : State, ((∃ t, step s = .next t) ↔ s.ready = true ∧ s.fault = none) ∧
    (s.fault ≠ none → step s = .refused .cycleWhileFaulted) ∧
    (s.fault = none → s.ready = false → step s = .refused .cycleWhileUnready)

/-- Execute raises a fault in exactly these cases and with exactly these recorded values (60_exceptions.md, model faults; the spec's
own D8 and D16). -/
def Obligations.FaultsAreExactlyThese : Prop :=
  ∀ (i : Instr) (s : State) (f : Fault), exec i s = .fault f ↔
    (∃ x, i = .ldB x ∧ 0xFFF < s.i.toNat + 2 ∧ f = .memoryOutOfRange (max s.i.toNat 0x1000)) ∨
    (∃ x, (i = .storeRegs x ∨ i = .loadRegs x) ∧ 0xFFF < s.i.toNat + x.val ∧
      f = .memoryOutOfRange (max s.i.toNat 0x1000)) ∨
    (∃ x y n, i = .drw x y n ∧ n ≠ 0 ∧ 0xFFF < s.i.toNat + n.toNat - 1 ∧
      f = .memoryOutOfRange (max s.i.toNat 0x1000)) ∨
    (∃ x, (i = .skp x ∨ i = .sknp x) ∧ 15 < (s.readV x).toNat ∧ f = .keyIndexOutOfRange (s.readV x))

/-! ## Arithmetic and register operations -/

/-- R73: LD Vx, byte: its words and its effect. -/
def Obligations.LoadByteResult : Prop :=
  (∀ w : Word, w &&& 0xF000 = 0x6000 → decodeWord w = .instr (.ldByte (fieldX w) (fieldNN w))) ∧
  (∀ (x : RegIdx) (nn : Byte) (s : State), ∃ t, exec (.ldByte x nn) s = .next t ∧ t.readV x = nn ∧
    RegsUnchangedExcept [x] s t ∧ UnchangedExcept [.v] s t)

/-- ADD Vx, byte wraps and records no carry (41_arithmetic.md; the spec's own D4). -/
def Obligations.AddByteResult : Prop :=
  ∀ (x : RegIdx) (nn : Byte) (s : State), ∃ t, exec (.addByte x nn) s = .next t ∧
    (t.readV x).toNat = ((s.readV x).toNat + nn.toNat) % 256 ∧
    RegsUnchangedExcept [x] s t ∧ UnchangedExcept [.v] s t

/-- LD, OR, AND and XOR of two registers, with no flag (41_arithmetic.md; the spec's own D3). -/
def Obligations.CopyAndLogicResults : Prop :=
  ∀ (x y : RegIdx) (s : State),
    (∃ t, exec (.ldReg x y) s = .next t ∧ t.readV x = s.readV y ∧
      RegsUnchangedExcept [x] s t ∧ UnchangedExcept [.v] s t) ∧
    (∃ t, exec (.orReg x y) s = .next t ∧ t.readV x = s.readV x ||| s.readV y ∧
      RegsUnchangedExcept [x] s t ∧ UnchangedExcept [.v] s t) ∧
    (∃ t, exec (.andReg x y) s = .next t ∧ t.readV x = s.readV x &&& s.readV y ∧
      RegsUnchangedExcept [x] s t ∧ UnchangedExcept [.v] s t) ∧
    (∃ t, exec (.xorReg x y) s = .next t ∧ t.readV x = s.readV x ^^^ s.readV y ∧
      RegsUnchangedExcept [x] s t ∧ UnchangedExcept [.v] s t)

/-- ADD Vx, Vy: the sum modulo 256 in V[X], for X = F too, and else the carry in VF (41_arithmetic.md; the spec's own D2). -/
def Obligations.AddRegistersResult : Prop :=
  ∀ (x y : RegIdx) (s : State), ∃ t, exec (.addReg x y) s = .next t ∧
    (t.readV x).toNat = ((s.readV x).toNat + (s.readV y).toNat) % 256 ∧
    (x ≠ 15 → t.readV 15 = if 255 < (s.readV x).toNat + (s.readV y).toNat then 1 else 0) ∧
    RegsUnchangedExcept [x, 15] s t ∧ UnchangedExcept [.v] s t

/-- SUB and SUBN: the wrapping difference in V[X], for X = F too, and else the strict no-borrow flag in VF (41_arithmetic.md; the
operand orders are marked by the spec as general knowledge, the write order as its own D2). -/
def Obligations.SubtractResults : Prop :=
  ∀ (x y : RegIdx) (s : State),
    (∃ t, exec (.sub x y) s = .next t ∧
      (t.readV x).toNat = ((s.readV x).toNat + 256 - (s.readV y).toNat) % 256 ∧
      (x ≠ 15 → t.readV 15 = if (s.readV y).toNat < (s.readV x).toNat then 1 else 0) ∧
      RegsUnchangedExcept [x, 15] s t ∧ UnchangedExcept [.v] s t) ∧
    (∃ t, exec (.subn x y) s = .next t ∧
      (t.readV x).toNat = ((s.readV y).toNat + 256 - (s.readV x).toNat) % 256 ∧
      (x ≠ 15 → t.readV 15 = if (s.readV x).toNat < (s.readV y).toNat then 1 else 0) ∧
      RegsUnchangedExcept [x, 15] s t ∧ UnchangedExcept [.v] s t)

/-- SHR and SHL: V[X] shifted in place by one, whatever Y is, for X = F too, and else the bit shifted out in VF (41_arithmetic.md;
the write order is the spec's own D2). -/
def Obligations.ShiftResults : Prop :=
  ∀ (x y : RegIdx) (s : State),
    (∃ t, exec (.shr x y) s = .next t ∧ (t.readV x).toNat = (s.readV x).toNat / 2 ∧
      (x ≠ 15 → (t.readV 15).toNat = (s.readV x).toNat % 2) ∧
      RegsUnchangedExcept [x, 15] s t ∧ UnchangedExcept [.v] s t) ∧
    (∃ t, exec (.shl x y) s = .next t ∧ (t.readV x).toNat = (s.readV x).toNat * 2 % 256 ∧
      (x ≠ 15 → (t.readV 15).toNat = (s.readV x).toNat / 128) ∧
      RegsUnchangedExcept [x, 15] s t ∧ UnchangedExcept [.v] s t)

/-- RND: the next draw, masked: it has zeros wherever the mask has, and the draw is used up (41_arithmetic.md; the spec's own D18).
The drawn byte is a free value of the model (log 4), and the statement holds whatever it is. -/
def Obligations.RandomByteResult : Prop :=
  ∀ (x : RegIdx) (nn : Byte) (s : State), ∃ t, exec (.rnd x nn) s = .next t ∧
    t.readV x = Config.draw8 s.draws &&& nn ∧ t.readV x &&& ~~~nn = 0 ∧ t.draws = s.draws + 1 ∧
    RegsUnchangedExcept [x] s t ∧ UnchangedExcept [.v, .draws] s t

/-! ## Control flow -/

/-- SYS has no effect; JP and JP V0 set PC to their exact target, with no reduction modulo 4096, and nothing else (42_control_flow.md;
general knowledge by the spec's marks, and its own D7 and D25). -/
def Obligations.SysAndJumpResults : Prop :=
  ∀ (nnn : Addr12) (s : State),
    (∃ t, exec (.sys nnn) s = .next t ∧ UnchangedExcept [] s t) ∧
    (∃ t, exec (.jp nnn) s = .next t ∧ t.pc.toNat = nnn.toNat ∧ UnchangedExcept [.pc] s t) ∧
    (∃ t, exec (.jpV0 nnn) s = .next t ∧ t.pc.toNat = nnn.toNat + (s.readV 0).toNat ∧ UnchangedExcept [.pc] s t)

/-- CALL: PC to slot SP mod 16, SP up by one modulo 256, PC to the target; the marker is set from SP = 16 on (42_control_flow.md; the
spec's own D9). -/
def Obligations.CallResult : Prop :=
  ∀ (nnn : Addr12) (s : State), ∃ t, exec (.call nnn) s = .next t ∧ t.pc.toNat = nnn.toNat ∧
    t.sp.toNat = (s.sp.toNat + 1) % 256 ∧
    (∀ k : Fin 16, t.stack.get k = if k.val = s.sp.toNat % 16 then s.pc else s.stack.get k) ∧
    (t.stackMarker = true ↔ s.stackMarker = true ∨ 16 ≤ s.sp.toNat) ∧
    UnchangedExcept [.pc, .sp, .stack, .stackMarker] s t

/-- RET: SP down by one modulo 256, PC from the slot it then names, the slot kept; the marker is set at SP = 0 and above 16
(42_control_flow.md; the spec's own D9). -/
def Obligations.ReturnResult : Prop :=
  ∀ (x : Nibble) (s : State), ∃ t, exec (.ret x) s = .next t ∧ t.sp.toNat = (s.sp.toNat + 255) % 256 ∧
    (∀ k : Fin 16, k.val = (s.sp.toNat + 255) % 16 → t.pc = s.stack.get k) ∧
    (t.stackMarker = true ↔ s.stackMarker = true ∨ s.sp.toNat = 0 ∨ 16 < s.sp.toNat) ∧
    UnchangedExcept [.pc, .sp, .stackMarker] s t

/-- A return that finds the stack and SP as a call left them goes back to the word after the call and undoes its SP, at every SP
(95_test_vectors.md S8; for SP outside the bound, the spec's own D9). -/
def Obligations.CallThenReturnComesBack : Prop :=
  ∀ (nnn : Addr12) (x : Nibble) (s t u : State), exec (.call nnn) s = .next t →
    UnchangedExcept [.mem, .v, .i, .pc, .dt, .st, .keys, .fb, .stackMarker, .font, .draws] t u →
    ∃ r, exec (.ret x) u = .next r ∧ r.pc = s.pc ∧ r.sp = s.sp

/-- The four skips on registers and immediates: two more on PC exactly when the condition holds, and nothing else (42_control_flow.md;
general knowledge by the spec's marks). -/
def Obligations.RegisterSkipResults : Prop :=
  ∀ (x y : RegIdx) (nn : Byte) (n : Nibble) (s : State),
    (∃ t, exec (.seByte x nn) s = .next t ∧ t.pc = (if s.readV x = nn then s.pc + 2 else s.pc) ∧
      UnchangedExcept [.pc] s t) ∧
    (∃ t, exec (.sneByte x nn) s = .next t ∧ t.pc = (if s.readV x = nn then s.pc else s.pc + 2) ∧
      UnchangedExcept [.pc] s t) ∧
    (∃ t, exec (.seReg x y n) s = .next t ∧ t.pc = (if s.readV x = s.readV y then s.pc + 2 else s.pc) ∧
      UnchangedExcept [.pc] s t) ∧
    (∃ t, exec (.sneReg x y n) s = .next t ∧ t.pc = (if s.readV x = s.readV y then s.pc else s.pc + 2) ∧
      UnchangedExcept [.pc] s t)

/-! ## Index register and memory -/

/-- The three writers of I: the immediate, the sum modulo 2^16 with no flag, and the glyph address with the digit not masked
(43_memory_access.md; general knowledge by the spec's marks, and its own D11 and D12). -/
def Obligations.IndexRegisterResults : Prop :=
  ∀ (nnn : Addr12) (x : RegIdx) (s : State),
    (∃ t, exec (.ldI nnn) s = .next t ∧ t.i.toNat = nnn.toNat ∧ UnchangedExcept [.i] s t) ∧
    (∃ t, exec (.addI x) s = .next t ∧ t.i.toNat = (s.i.toNat + (s.readV x).toNat) % 65536 ∧
      UnchangedExcept [.i] s t) ∧
    (∃ t, exec (.ldF x) s = .next t ∧ t.i.toNat = Config.fontBase + (s.readV x).toNat * 5 ∧
      UnchangedExcept [.i] s t)

/-- LD B, Vx in range: the hundreds, tens and ones at I, I + 1, I + 2, and no other byte and no other piece of state
(43_memory_access.md; the range is the spec's own D8). -/
def Obligations.StoreDecimalDigitsResult : Prop :=
  ∀ (x : RegIdx) (s : State), s.i.toNat + 2 ≤ 0xFFF → ∃ t, exec (.ldB x) s = .next t ∧
    (t.readByte s.i.toNat).toNat = (s.readV x).toNat / 100 ∧
    (t.readByte (s.i.toNat + 1)).toNat = (s.readV x).toNat / 10 % 10 ∧
    (t.readByte (s.i.toNat + 2)).toNat = (s.readV x).toNat % 10 ∧
    BytesUnchangedOutside s.blockBase 3 s t ∧ UnchangedExcept [.mem] s t

/-- LD [I], Vx in range: V[k] at I + k for every k up to X, I kept, and no other byte and no other piece of state
(43_memory_access.md; the range is the spec's own D8). -/
def Obligations.StoreRegistersResult : Prop :=
  ∀ (x : RegIdx) (s : State), s.i.toNat + x.val ≤ 0xFFF → ∃ t, exec (.storeRegs x) s = .next t ∧
    (∀ k : RegIdx, k ≤ x → t.readByte (s.i.toNat + k.val) = s.readV k) ∧
    BytesUnchangedOutside s.blockBase (x.val + 1) s t ∧ UnchangedExcept [.mem] s t

/-- LD Vx, [I] in range: V[k] from I + k for every k up to X, the other registers and everything else kept
(43_memory_access.md; the range is the spec's own D8). -/
def Obligations.LoadRegistersResult : Prop :=
  ∀ (x : RegIdx) (s : State), s.i.toNat + x.val ≤ 0xFFF → ∃ t, exec (.loadRegs x) s = .next t ∧
    (∀ k : RegIdx, t.readV k = if k ≤ x then s.readByte (s.i.toNat + k.val) else s.readV k) ∧
    UnchangedExcept [.v] s t

/-- Registers stored by FX55 come back by an FX65 of the same block, whatever they were changed to in between. -/
def Obligations.StoreThenLoadRestoresRegisters : Prop :=
  ∀ (x : RegIdx) (s t u : State), exec (.storeRegs x) s = .next t →
    UnchangedExcept [.v, .pc, .sp, .stack, .dt, .st, .keys, .fb, .ready, .fault, .stackMarker, .font, .draws] t u →
    ∃ r, exec (.loadRegs x) u = .next r ∧
      ∀ k : RegIdx, r.readV k = if k ≤ x then s.readV k else u.readV k

/-- A stored pair of bytes is what the next fetch at their address reads, the lower address as the high byte (20_memory.md,
instruction-fetch coherence, derived there). -/
def Obligations.StoredCodeIsFetched : Prop :=
  ∀ (x k j : RegIdx) (s t : State) (a : Word), exec (.storeRegs x) s = .next t → j ≤ x → j.val = k.val + 1 →
    a.toNat = s.i.toNat + k.val →
    (t.setPc a).codeWord.toNat = 256 * (s.readV k).toNat + (s.readV j).toNat

/-- Whatever the font table, two memories in canonical form that read alike are equal (log 1: the model's representation). -/
def Obligations.CanonicalMemoryIsUnique : Prop :=
  ∀ (font : FontTable) (m n : Memory), m.wf font → n.wf font → (∀ a, m.read font a = n.read font a) → m = n

/-! ## Timers and keys -/

/-- The three timer moves (44_timers_input.md). -/
def Obligations.TimerMoveResults : Prop :=
  ∀ (x : RegIdx) (s : State),
    (∃ t, exec (.ldVxDt x) s = .next t ∧ t.readV x = s.dt ∧ RegsUnchangedExcept [x] s t ∧ UnchangedExcept [.v] s t) ∧
    (∃ t, exec (.ldDtVx x) s = .next t ∧ t.dt = s.readV x ∧ UnchangedExcept [.dt] s t) ∧
    (∃ t, exec (.ldStVx x) s = .next t ∧ t.st = s.readV x ∧ UnchangedExcept [.st] s t)

/-- R23 and R24: who writes the timers, who reads them, and the clamped tick; no instruction reads ST and the host can. -/
def Obligations.TimersAreWrittenAndReadAsStated : Prop :=
  (∀ (x : RegIdx) (s : State), ∃ t u v, exec (.ldDtVx x) s = .next t ∧ t.dt = s.readV x ∧
    exec (.ldStVx x) s = .next u ∧ u.st = s.readV x ∧ exec (.ldVxDt x) s = .next v ∧ v.readV x = s.dt) ∧
  (∀ (i : Instr) (s t : State), exec i s = .next t →
    ((∀ x, i ≠ .ldDtVx x) → t.dt = s.dt) ∧ ((∀ x, i ≠ .ldStVx x) → t.st = s.st)) ∧
  (∀ s t : State, step s = .next t → t.fault = none →
    ∃ u, execDecoded s.nextDecoded (s.setPc (s.pc + 2)) = .next u ∧
      t.dt.toNat = u.dt.toNat - 1 ∧ t.st.toNat = u.st.toNat - 1) ∧
  (∀ (i : Instr) (s : State) (b : Byte), (∀ x, i ≠ .ldVxDt x) →
    SameOutcome (UnchangedExcept [.dt]) (exec i s) (exec i (s.setDt b))) ∧
  (∀ (i : Instr) (s : State) (b : Byte), SameOutcome (UnchangedExcept [.st]) (exec i s) (exec i (s.setSt b))) ∧
  (∀ s : State, hostCall .readSoundTimer s = (.soundTimer s.st, s))

/-- A timer set in a cycle is one lower at its end, clamped at 0, and the other timer has ticked (70_reset_and_hazards.md, derived
there). -/
def Obligations.TimerSetInACycleIsOneLower : Prop :=
  ∀ (x : RegIdx) (s : State), s.ready = true → s.fault = none → s.pc.toNat + 2 ≤ 0x1000 →
    (s.nextDecoded = .instr (.ldDtVx x) → ∃ t, step s = .next t ∧ t.dt.toNat = (s.readV x).toNat - 1 ∧
      t.st.toNat = s.st.toNat - 1 ∧ t.pc = s.pc + 2) ∧
    (s.nextDecoded = .instr (.ldStVx x) → ∃ t, step s = .next t ∧ t.st.toNat = (s.readV x).toNat - 1 ∧
      t.dt.toNat = s.dt.toNat - 1 ∧ t.pc = s.pc + 2)

/-- SKP and SKNP with a key number in 0 to 15: two more on PC exactly when that key is, or is not, pressed (44_timers_input.md; the
bound is the spec's own D16). -/
def Obligations.KeySkipResults : Prop :=
  ∀ (x : RegIdx) (k : KeyIdx) (s : State), (s.readV x).toNat = k.val →
    (∃ t, exec (.skp x) s = .next t ∧ t.pc = (if s.pressed k = true then s.pc + 2 else s.pc) ∧
      UnchangedExcept [.pc] s t) ∧
    (∃ t, exec (.sknp x) s = .next t ∧ t.pc = (if s.pressed k = true then s.pc else s.pc + 2) ∧
      UnchangedExcept [.pc] s t)

/-- LD Vx, K: with no key pressed PC goes back by 2 and nothing else changes; else V[X] is the number of a pressed key, which one
being a free value (the spec's own D17; log 5), the one pressed key where there is one (44_timers_input.md). -/
def Obligations.KeyWaitResult : Prop :=
  ∀ (x : RegIdx) (s : State),
    ((∀ k, s.pressed k = false) → ∃ t, exec (.ldVxK x) s = .next t ∧ t.pc = s.pc - 2 ∧ UnchangedExcept [.pc] s t) ∧
    ((∃ k, s.pressed k = true) → ∃ t k, exec (.ldVxK x) s = .next t ∧ s.pressed k = true ∧
      (t.readV x).toNat = k.val ∧ RegsUnchangedExcept [x] s t ∧ UnchangedExcept [.v, .draws] s t)

/-- While no key is pressed a cycle on FX0A leaves PC on it and changes only the timers, so that the next cycle finds the same word
(44_timers_input.md, derived there from the retry and the tick). -/
def Obligations.KeyWaitRepeats : Prop :=
  ∀ (x : RegIdx) (s : State), s.ready = true → s.fault = none → s.pc.toNat + 2 ≤ 0x1000 →
    s.nextDecoded = .instr (.ldVxK x) → (∀ k, s.pressed k = false) →
    ∃ t, step s = .next t ∧ t.pc = s.pc ∧ t.dt.toNat = s.dt.toNat - 1 ∧ t.st.toNat = s.st.toNat - 1 ∧
      UnchangedExcept [.dt, .st] s t ∧ t.nextDecoded = .instr (.ldVxK x)

/-- The key table is the host's: no cycle writes it, a key write changes one key and nothing else, and a key keeps its value over any
moves that neither write it nor reset the machine (60_exceptions.md, key writes). -/
def Obligations.KeysBelongToTheHost : Prop :=
  (∀ s t : State, step s = .next t → ∀ k, t.pressed k = s.pressed k) ∧
  (∀ (k j : KeyIdx) (p : Bool) (s : State),
    (hostCall (.setKey k p) s).2.pressed j = (if j = k then p else s.pressed j) ∧
    UnchangedExcept [.keys] s (hostCall (.setKey k p) s).2) ∧
  (∀ (ms : List Move) (k : KeyIdx) (s t : State), runMoves ms s = .next t → Move.call .init ∉ ms →
    (∀ p, Move.call (.setKey k p) ∉ ms) → t.pressed k = s.pressed k)

/-! ## Display -/

/-- CLS unlights every cell and changes nothing else (45_display.md; the spec's own D5). -/
def Obligations.ClearScreenResult : Prop :=
  ∀ (x : Nibble) (s : State), ∃ t, exec (.cls x) s = .next t ∧ (∀ r c, t.fb.lit r c = false) ∧
    UnchangedExcept [.fb] s t

/-- DRW in range, for the N bytes from I: the cells its 1 bits target are inverted and no others, VF tells whether one of them was
lit, N = 0 included, and nothing else changes (45_display.md; the origin registers and the bit order are marked by the spec as general
knowledge, the range, the bit order and N = 0 as its own D8, D14 and D15). -/
def Obligations.DrawResult : Prop :=
  ∀ (x y : RegIdx) (n : Nibble) (s : State) (bytes : List Byte), n = 0 ∨ s.i.toNat + n.toNat - 1 ≤ 0xFFF →
    bytes.length = n.toNat → (∀ k, k < n.toNat → bytes.getD k 0 = s.readByte (s.i.toNat + k)) →
    ∃ t, exec (.drw x y n) s = .next t ∧
      (∀ r c, SpriteCovers (s.readV x) (s.readV y) bytes r c → t.fb.lit r c = !s.fb.lit r c) ∧
      (∀ r c, ¬SpriteCovers (s.readV x) (s.readV y) bytes r c → t.fb.lit r c = s.fb.lit r c) ∧
      ((∃ r c, SpriteCovers (s.readV x) (s.readV y) bytes r c ∧ s.fb.lit r c = true) → t.readV 15 = 1) ∧
      ((∀ r c, SpriteCovers (s.readV x) (s.readV y) bytes r c → s.fb.lit r c = false) → t.readV 15 = 0) ∧
      RegsUnchangedExcept [15] s t ∧ UnchangedExcept [.v, .fb] s t

/-- The loop of the blitter, for up to 15 rows, inverts exactly the cells that a 1 bit targets, each axis wrapped on its own, and
reports a collision exactly when one of them was lit (45_display.md; the bit order is the spec's own D14, log 17). -/
def Obligations.BlitterInvertsTheWrappedCells : Prop :=
  ∀ (x0 y0 : Byte) (bytes : List Byte) (fb : Framebuffer), bytes.length ≤ 15 →
    (∀ r c, SpriteCovers x0 y0 bytes r c → (drawSprite x0 y0 bytes fb).1.lit r c = !fb.lit r c) ∧
    (∀ r c, ¬SpriteCovers x0 y0 bytes r c → (drawSprite x0 y0 bytes fb).1.lit r c = fb.lit r c) ∧
    ((drawSprite x0 y0 bytes fb).2 = true ↔ ∃ r c, SpriteCovers x0 y0 bytes r c ∧ fb.lit r c = true)

/-- Drawing a sprite twice restores the framebuffer, and the second draw collides exactly when the first lit a cell; on a clear
framebuffer no draw collides (45_display.md, properties derived there). -/
def Obligations.DrawingTwiceRestores : Prop :=
  ∀ (x0 y0 : Byte) (bytes : List Byte) (fb : Framebuffer), bytes.length ≤ 15 →
    (drawSprite x0 y0 bytes (drawSprite x0 y0 bytes fb).1).1 = fb ∧
    ((drawSprite x0 y0 bytes (drawSprite x0 y0 bytes fb).1).2 = true ↔
      ∃ r c, fb.lit r c = false ∧ (drawSprite x0 y0 bytes fb).1.lit r c = true) ∧
    (drawSprite x0 y0 bytes blankFb).2 = false

/-! ## Whole-machine rules -/

/-- The frame of every instruction at once: only the pieces of `Instr.changes` and only the registers of `Instr.writesReg` may
change, and of memory only the three bytes from I (FX33) or the X + 1 bytes from I (FX55) (10_state.md, the lists of writers, derived
there; 43_memory_access.md). -/
def Obligations.EveryInstructionKeepsItsFrame : Prop :=
  ∀ (i : Instr) (s t : State), exec i s = .next t →
    UnchangedExcept i.changes s t ∧ (∀ r, i.writesReg r = false → t.readV r = s.readV r) ∧
    (∀ x, i = .ldB x → BytesUnchangedOutside s.blockBase 3 s t) ∧
    (∀ x, i = .storeRegs x → BytesUnchangedOutside s.blockBase (regCount x) s t)

/-- An instruction depends on no register but those it names as sources; VF is read only where register 15 is named (10_state.md,
derived there). A register it does not name as a source is left by it with the same value whatever was there before, or is kept from
each start state; every other register and piece of state ends the same. -/
def Obligations.UnnamedRegistersDoNotMatter : Prop :=
  ∀ (i : Instr) (s : State) (r : RegIdx) (b : Byte), i.readsReg r = false →
    SameOutcome (fun t u => (t.readV r = u.readV r ∨ (t.readV r = s.readV r ∧ u.readV r = b)) ∧
      RegsUnchangedExcept [r] t u ∧ UnchangedExcept [.v] t u) (exec i s) (exec i (s.writeV r b))

/-- R21: SP is written by CALL, up by one, and RET, down by one, unguarded; the others neither write nor read it, and these two move
it to no general register. -/
def Obligations.StackPointerBelongsToCallAndReturn : Prop :=
  (∀ (nnn : Addr12) (s : State), ∃ t, exec (.call nnn) s = .next t ∧ t.sp.toNat = (s.sp.toNat + 1) % 256 ∧
    RegsUnchangedExcept [] s t) ∧
  (∀ (x : Nibble) (s : State), ∃ t, exec (.ret x) s = .next t ∧ t.sp.toNat = (s.sp.toNat + 255) % 256 ∧
    RegsUnchangedExcept [] s t) ∧
  (∀ (i : Instr) (s : State) (b : Byte), (∀ nnn, i ≠ .call nnn) → (∀ x, i ≠ .ret x) →
    (∀ t, exec i s = .next t → t.sp = s.sp) ∧
    SameOutcome (UnchangedExcept [.sp]) (exec i s) (exec i { s with sp := b }))

/-- The marker never changes what the engine does, and once set no cycle clears it (10_state.md; the spec's own D9). -/
def Obligations.StackMarkerChangesNothing : Prop :=
  (∀ (s : State) (b : Bool),
    SameOutcome (UnchangedExcept [.stackMarker]) (step s) (step { s with stackMarker := b })) ∧
  (∀ s t : State, step s = .next t → s.stackMarker = true → t.stackMarker = true)

/-! ## Reset, loading and the host -/

/-- The reset values, at reset with any font table, in `State.reset` with the default one, and after init() in any state, which keeps
the table of the machine and reloads it (10_state.md, the reset table; 20_memory.md, the font; the spec's own D12, D13 and D19). -/
def Obligations.ResetValues : Prop :=
  ∀ (font : FontTable) (s t : State), (t = State.resetWith font ∨ (t = State.reset ∧ font = Config.defaultFontTable) ∨
      (t = (hostCall .init s).2 ∧ font = s.font)) →
    t.font = font ∧ (∀ d : Fin 80, t.readByte (Config.fontBase + d.val) = font.get d) ∧
    (∀ a, 0x50 ≤ a → t.readByte a = 0) ∧ (∀ k, t.readV k = 0) ∧ t.i = 0 ∧ t.pc = 0x200 ∧ t.sp = 0 ∧
    (∀ k, t.stack.get k = 0) ∧ t.dt = 0 ∧ t.st = 0 ∧ (∀ k, t.pressed k = false) ∧
    (∀ r c, t.fb.lit r c = false) ∧ t.ready = false ∧ t.fault = none ∧ t.stackMarker = false

/-- loadProgram copies an image that fits to 0x200, makes the engine ready and changes nothing else; one byte too many writes nothing
and leaves it unready (70_reset_and_hazards.md; the spec's own D21). -/
def Obligations.LoadProgramResult : Prop :=
  ∀ (bytes : List Byte) (s : State),
    (bytes.length ≤ 3584 → ∃ t, hostCall (.loadProgram bytes) s = (.load .success, t) ∧ t.ready = true ∧
      (∀ k, k < bytes.length → t.readByte (0x200 + k) = bytes.getD k 0) ∧
      BytesUnchangedOutside 0x200 bytes.length s t ∧ UnchangedExcept [.mem, .ready] s t) ∧
    (3584 < bytes.length → ∃ t, hostCall (.loadProgram bytes) s = (.load .capacityExceeded, t) ∧ t.ready = false ∧
      UnchangedExcept [.ready] s t)

/-- After init() and a load that fits, the first cycle runs the image's first word at 0x200 (70_reset_and_hazards.md; the spec's own
D19, D20 and D21). -/
def Obligations.BootRunsTheFirstWord : Prop :=
  ∀ (s t : State) (hi lo : Byte) (rest : List Byte) (i : Instr), rest.length ≤ 3582 →
    decodeWord (wordOfBytes hi lo) = .instr i →
    t = (hostCall (.loadProgram (hi :: lo :: rest)) (hostCall .init s).2).2 →
    t.pc = 0x200 ∧ step t = endCycle t (exec i (t.setPc 0x202))

/-- The host's reads give what they name and change nothing (60_exceptions.md, host interface). -/
def Obligations.HostReadsChangeNothing : Prop :=
  ∀ s : State, hostCall .isReady s = (.ready s.ready, s) ∧ hostCall .readFramebuffer s = (.framebuffer s.fb, s) ∧
    hostCall .readSoundTimer s = (.soundTimer s.st, s) ∧ hostCall .faultStatus s = (.fault s.fault, s)

/-! ## Invariants -/

/-- The invariant holds at reset, whatever the font table. -/
def Obligations.InvariantAtReset : Prop := State.reset.Inv ∧ ∀ font : FontTable, (State.resetWith font).Inv

/-- Every step keeps the invariant: canonical memory; PC at most 0x10FE and return addresses at most 0x1000; SP at most 16 while the
marker is clear; sound fault records (10_state.md PC and SP; the bounds rest on the spec's own D8, D9 and D25). -/
def Obligations.InvariantKeptByEveryStep : Prop :=
  ∀ s t : State, s.Inv → step s = .next t → t.Inv

/-- Every host call keeps the invariant. -/
def Obligations.InvariantKeptByHostCalls : Prop :=
  ∀ (c : HostCall) (s : State), s.Inv → (hostCall c s).2.Inv

/-- Over any moves the invariant holds at the end, and where the run is safe there, SP is at most 16 (10_state.md SP: the bound holds
for programs that keep calls and returns within it; the marker is the spec's own D9). -/
def Obligations.RunsStayWithinTheBounds : Prop :=
  ∀ (ms : List Move) (s t : State), s.Inv → runMoves ms s = .next t → t.Inv ∧ (t.safe → t.sp.toNat ≤ 16)
end

