-- ==== Sys2Proof/Laws/Decode.lean ====
section
/-! SUPPORT. The fields of an assembled word are the fields it was assembled from, and the other way round. -/

namespace Sys2Proof

@[simp] theorem family_ofNibbles (f x y n : Nibble) : family (ofNibbles f x y n) = f := by
  apply BitVec.eq_of_getLsbD_eq
  intro i hi
  interval_cases i <;> simp only [family, ofNibbles, BitVec.getLsbD_append, BitVec.getLsbD_extractLsb'] <;> rfl

@[simp] theorem nibbleX_ofNibbles (f x y n : Nibble) : nibbleX (ofNibbles f x y n) = x := by
  apply BitVec.eq_of_getLsbD_eq
  intro i hi
  interval_cases i <;> simp only [nibbleX, ofNibbles, BitVec.getLsbD_append, BitVec.getLsbD_extractLsb'] <;> rfl

@[simp] theorem nibbleY_ofNibbles (f x y n : Nibble) : nibbleY (ofNibbles f x y n) = y := by
  apply BitVec.eq_of_getLsbD_eq
  intro i hi
  interval_cases i <;> simp only [nibbleY, ofNibbles, BitVec.getLsbD_append, BitVec.getLsbD_extractLsb'] <;> rfl

@[simp] theorem fieldN_ofNibbles (f x y n : Nibble) : fieldN (ofNibbles f x y n) = n := by
  apply BitVec.eq_of_getLsbD_eq
  intro i hi
  interval_cases i <;> simp only [fieldN, ofNibbles, BitVec.getLsbD_append, BitVec.getLsbD_extractLsb'] <;> rfl

@[simp] theorem fieldNN_ofNibbles (f x y n : Nibble) : fieldNN (ofNibbles f x y n) = y ++ n := by
  apply BitVec.eq_of_getLsbD_eq
  intro i hi
  interval_cases i <;> simp only [fieldNN, ofNibbles, BitVec.getLsbD_append, BitVec.getLsbD_extractLsb'] <;> rfl

@[simp] theorem family_ofRegByte (f : Nibble) (x : RegIdx) (nn : Byte) : family (ofRegByte f x nn) = f := by
  apply BitVec.eq_of_getLsbD_eq
  intro i hi
  interval_cases i <;> simp only [family, ofRegByte, BitVec.getLsbD_append, BitVec.getLsbD_extractLsb'] <;> rfl

@[simp] theorem nibbleX_ofRegByte (f : Nibble) (x : RegIdx) (nn : Byte) :
    nibbleX (ofRegByte f x nn) = regNibble x := by
  apply BitVec.eq_of_getLsbD_eq
  intro i hi
  interval_cases i <;> simp only [nibbleX, ofRegByte, BitVec.getLsbD_append, BitVec.getLsbD_extractLsb'] <;> rfl

@[simp] theorem fieldNN_ofRegByte (f : Nibble) (x : RegIdx) (nn : Byte) : fieldNN (ofRegByte f x nn) = nn := by
  apply BitVec.eq_of_getLsbD_eq
  intro i hi
  interval_cases i <;> simp only [fieldNN, ofRegByte, BitVec.getLsbD_append, BitVec.getLsbD_extractLsb'] <;> rfl

@[simp] theorem family_ofAddr (f : Nibble) (nnn : Addr12) : family (ofAddr f nnn) = f := by
  apply BitVec.eq_of_getLsbD_eq
  intro i hi
  interval_cases i <;> simp only [family, ofAddr, BitVec.getLsbD_append, BitVec.getLsbD_extractLsb'] <;> rfl

@[simp] theorem fieldNNN_ofAddr (f : Nibble) (nnn : Addr12) : fieldNNN (ofAddr f nnn) = nnn := by
  apply BitVec.eq_of_getLsbD_eq
  intro i hi
  interval_cases i <;> simp only [fieldNNN, ofAddr, BitVec.getLsbD_append, BitVec.getLsbD_extractLsb'] <;> rfl

@[simp] theorem fieldNN_ofAddr (f : Nibble) (nnn : Addr12) : fieldNN (ofAddr f nnn) = nnn.setWidth 8 := by
  apply BitVec.eq_of_getLsbD_eq
  intro i hi
  interval_cases i <;> simp only [fieldNN, ofAddr, BitVec.getLsbD_append, BitVec.getLsbD_extractLsb', BitVec.getLsbD_setWidth] <;> rfl

@[simp] theorem toFin_regNibble (x : RegIdx) : (regNibble x).toFin = x := rfl

@[simp] theorem regNibble_fieldX (w : Word) : regNibble (fieldX w) = nibbleX w := rfl

@[simp] theorem regNibble_fieldY (w : Word) : regNibble (fieldY w) = nibbleY w := rfl

@[simp] theorem fieldX_ofRegByte (f : Nibble) (x : RegIdx) (nn : Byte) : fieldX (ofRegByte f x nn) = x := by
  simp [fieldX]

@[simp] theorem fieldX_ofRegs (f : Nibble) (x y : RegIdx) (n : Nibble) : fieldX (ofRegs f x y n) = x := by
  simp [fieldX, ofRegs]

@[simp] theorem fieldY_ofRegs (f : Nibble) (x y : RegIdx) (n : Nibble) : fieldY (ofRegs f x y n) = y := by
  simp [fieldY, ofRegs]

@[simp] theorem fieldN_ofRegs (f : Nibble) (x y : RegIdx) (n : Nibble) : fieldN (ofRegs f x y n) = n := by
  simp [ofRegs]

@[simp] theorem family_ofRegs (f : Nibble) (x y : RegIdx) (n : Nibble) : family (ofRegs f x y n) = f := by
  simp [ofRegs]

/-- A word is assembled from its own nibbles. -/
theorem ofNibbles_fields (w : Word) : ofNibbles (family w) (nibbleX w) (nibbleY w) (fieldN w) = w := by
  apply BitVec.eq_of_getLsbD_eq
  intro i hi
  interval_cases i <;> simp only [ofNibbles, family, nibbleX, nibbleY, fieldN, BitVec.getLsbD_append, BitVec.getLsbD_extractLsb'] <;> rfl

theorem ofRegByte_fields (w : Word) : ofRegByte (family w) (fieldX w) (fieldNN w) = w := by
  apply BitVec.eq_of_getLsbD_eq
  intro i hi
  interval_cases i <;> simp only [ofRegByte, regNibble_fieldX, family, nibbleX, fieldNN, BitVec.getLsbD_append, BitVec.getLsbD_extractLsb'] <;> rfl

theorem ofAddr_fields (w : Word) : ofAddr (family w) (fieldNNN w) = w := by
  apply BitVec.eq_of_getLsbD_eq
  intro i hi
  interval_cases i <;> simp only [ofAddr, family, fieldNNN, BitVec.getLsbD_append, BitVec.getLsbD_extractLsb'] <;> rfl

/-- The two bytes of a word, laid out high byte first, make the word again (R38). -/
@[simp] theorem wordOfBytes_bytes (w : Word) : wordOfBytes (highByte w) (lowByte w) = w := by
  apply BitVec.eq_of_getLsbD_eq
  intro i hi
  interval_cases i <;> simp only [wordOfBytes, highByte, lowByte, BitVec.getLsbD_append, BitVec.getLsbD_extractLsb'] <;> rfl

end Sys2Proof
end

