-- ==== Sys2Proof/Laws/Memory.lean ====
section
/-! SUPPORT. The laws of memory: a read after a write, and the canonical form every memory operation keeps. -/

namespace Sys2Proof.Machine

variable {font : FontTable}

/-! ### The reset contents -/

/-- Byte `d` of FONT_TABLE lies at FONT_BASE + d (R36). -/
@[simp] theorem unlistedByte_font (d : Fin 80) : unlistedByte font (Config.fontBase + d.val) = font.get d := by
  have h : Config.fontBase ≤ Config.fontBase + d.val ∧ Config.fontBase + d.val < Config.fontBase + 80 := by omega
  simp [unlistedByte, h]

/-- Past the table every reset byte is 0x00 (R32). -/
theorem unlistedByte_past {a : Nat} (h : Config.fontBase + 80 ≤ a) : unlistedByte font a = 0 :=
  dif_neg (by omega)

/-! ### Reading -/

theorem Memory.read_eq_unlisted {m : Memory} {a : Nat} (h : ∀ c ∈ m, c.1 ≠ a) : m.read font a = unlistedByte font a := by
  induction m with
  | nil => rfl
  | cons c m ih =>
    have hc : a ≠ c.1 := fun e => h c (by simp) e.symm
    simp only [Memory.read, if_neg hc]
    exact ih fun d hd => h d (by simp [hd])

theorem Memory.mem_erase {m : Memory} {a : Nat} {c : Host.Cell} : c ∈ m.erase a ↔ c ∈ m ∧ c.1 ≠ a := by
  simp [Memory.erase]

theorem Memory.read_erase_same (m : Memory) (a : Nat) : (m.erase a).read font a = unlistedByte font a :=
  read_eq_unlisted fun _ hc => (mem_erase.1 hc).2

theorem Memory.read_erase_other (m : Memory) {a a' : Nat} (h : a' ≠ a) : (m.erase a).read font a' = m.read font a' := by
  induction m with
  | nil => rfl
  | cons c m ih =>
    by_cases hc : c.1 = a
    · have : a' ≠ c.1 := by omega
      simp only [Memory.erase, List.filter_cons, hc, bne_self_eq_false, Bool.false_eq_true, ↓reduceIte, Memory.read] at ih ⊢
      rw [if_neg h]; exact ih
    · simp only [Memory.erase, List.filter_cons, bne_iff_ne, ne_eq, hc, not_false_eq_true, ↓reduceIte, Memory.read] at ih ⊢
      rw [ih]

theorem Memory.read_insert_same (m : Memory) (a : Nat) (b : Byte) (h : ∀ c ∈ m, c.1 ≠ a) :
    (Memory.insert a b m).read font a = b := by
  induction m with
  | nil => simp [Memory.insert, Memory.read]
  | cons c m ih =>
    have hc : a ≠ c.1 := fun e => h c (by simp) e.symm
    simp only [Memory.insert]
    split
    · simp [Memory.read]
    · simp only [Memory.read, if_neg hc]
      exact ih fun d hd => h d (by simp [hd])

theorem Memory.read_insert_other (m : Memory) (a : Nat) (b : Byte) {a' : Nat} (h : a' ≠ a) :
    (Memory.insert a b m).read font a' = m.read font a' := by
  induction m with
  | nil => simp [Memory.insert, Memory.read, h]
  | cons c m ih =>
    simp only [Memory.insert]
    split
    · simp [Memory.read, h]
    · simp only [Memory.read, ih]

/-- A read after a write to the same address gives the byte written. -/
@[simp] theorem Memory.read_write_same (m : Memory) (a : Nat) (b : Byte) : (m.write font a b).read font a = b := by
  unfold Memory.write
  split
  · next h => rw [read_erase_same, h]
  · exact read_insert_same _ _ _ fun _ hc => (mem_erase.1 hc).2

/-- A write leaves every other address alone. -/
theorem Memory.read_write_other (m : Memory) (a : Nat) (b : Byte) {a' : Nat} (h : a' ≠ a) :
    (m.write font a b).read font a' = m.read font a' := by
  unfold Memory.write
  split
  · exact read_erase_other m h
  · rw [read_insert_other _ _ _ h, read_erase_other m h]

/-- Outside the block a block write leaves memory alone. -/
theorem Memory.read_writeBytes_outside (bs : List Byte) : ∀ (m : Memory) (base a : Nat),
    a < base ∨ base + bs.length ≤ a → (m.writeBytes font base bs).read font a = m.read font a := by
  induction bs with
  | nil => intros; rfl
  | cons b bs ih =>
    intro m base a h
    simp only [List.length_cons] at h
    rw [Memory.writeBytes, ih _ _ _ (by omega), read_write_other _ _ _ (by omega)]

/-- Inside the block a block write leaves the bytes written. -/
theorem Memory.read_writeBytes_inside (bs : List Byte) : ∀ (m : Memory) (base k : Nat) (h : k < bs.length),
    (m.writeBytes font base bs).read font (base + k) = bs[k] := by
  induction bs with
  | nil => intro _ _ _ h; simp at h
  | cons b bs ih =>
    intro m base k h
    cases k with
    | zero =>
      rw [Memory.writeBytes, read_writeBytes_outside _ _ _ _ (by omega)]
      simp
    | succ k =>
      have := ih (m.write font base b) (base + 1) k (by simpa using h)
      rw [Memory.writeBytes, show base + (k + 1) = base + 1 + k by omega, this]
      simp

/-! ### The canonical form -/

theorem Memory.wf_nil : Memory.wf font [] := ⟨List.Pairwise.nil, by simp⟩

theorem Memory.wf_erase {m : Memory} (h : m.wf font) (a : Nat) : (m.erase a).wf font :=
  ⟨h.1.filter _, fun c hc => h.2 c (mem_erase.1 hc).1⟩

theorem Memory.mem_insert {m : Memory} {a : Nat} {b : Byte} {c : Host.Cell} :
    c ∈ Memory.insert a b m ↔ c = (a, b) ∨ c ∈ m := by
  induction m with
  | nil => simp [Memory.insert]
  | cons d m ih =>
    simp only [Memory.insert]
    split
    · simp
    · simp only [List.mem_cons, ih]; tauto

theorem Memory.pairwise_insert {m : Memory} {a : Nat} {b : Byte} (h : m.Pairwise (fun c d => c.1 < d.1))
    (ha : ∀ c ∈ m, c.1 ≠ a) : (Memory.insert a b m).Pairwise (fun c d => c.1 < d.1) := by
  induction m with
  | nil => simp [Memory.insert]
  | cons c m ih =>
    have hm := List.pairwise_cons.1 h
    simp only [Memory.insert]
    split
    · next hlt =>
      refine List.pairwise_cons.2 ⟨?_, h⟩
      intro d hd
      rcases List.mem_cons.1 hd with rfl | hd
      · exact hlt
      · exact Nat.lt_trans hlt (hm.1 d hd)
    · next hge =>
      refine List.pairwise_cons.2 ⟨?_, ih hm.2 fun d hd => ha d (by simp [hd])⟩
      intro d hd
      rcases mem_insert.1 hd with rfl | hd
      · have := ha c (by simp)
        show c.1 < a
        omega
      · exact hm.1 d hd

/-- A write inside the address space keeps the canonical form. -/
theorem Memory.wf_write {m : Memory} (h : m.wf font) {a : Nat} (ha : a < Config.memSize) (b : Byte) : (m.write font a b).wf font := by
  unfold Memory.write
  split
  · exact wf_erase h a
  · next hb =>
    refine ⟨pairwise_insert (wf_erase h a).1 fun c hc => (mem_erase.1 hc).2, ?_⟩
    intro c hc
    rcases mem_insert.1 hc with rfl | hc
    · exact ⟨ha, hb⟩
    · exact (wf_erase h a).2 c hc

/-- A block write inside the address space keeps the canonical form. -/
theorem Memory.wf_writeBytes (bs : List Byte) : ∀ (m : Memory) (base : Nat), m.wf font →
    base + bs.length ≤ Config.memSize → (m.writeBytes font base bs).wf font := by
  induction bs with
  | nil => intro m _ h _; exact h
  | cons b bs ih =>
    intro m base h hb
    simp only [List.length_cons] at hb
    exact ih _ _ (wf_write h (by omega) b) (by omega)

end Sys2Proof.Machine
end

