-- ==== Sys2Proof/Laws/State.lean ====
section
/-! SUPPORT. What each update of the state does to each field: one lemma per field per update, so that no proof unfolds a record
update. -/

namespace Sys2Proof.Machine

/-! ### writeV -/

@[simp] theorem State.writeV_mem (s : State) (x : RegIdx) (b : Byte) : (s.writeV x b).mem = s.mem := rfl
@[simp] theorem State.writeV_v (s : State) (x : RegIdx) (b : Byte) : (s.writeV x b).v = s.v.set x b := rfl
@[simp] theorem State.writeV_i (s : State) (x : RegIdx) (b : Byte) : (s.writeV x b).i = s.i := rfl
@[simp] theorem State.writeV_pc (s : State) (x : RegIdx) (b : Byte) : (s.writeV x b).pc = s.pc := rfl
@[simp] theorem State.writeV_sp (s : State) (x : RegIdx) (b : Byte) : (s.writeV x b).sp = s.sp := rfl
@[simp] theorem State.writeV_stack (s : State) (x : RegIdx) (b : Byte) : (s.writeV x b).stack = s.stack := rfl
@[simp] theorem State.writeV_dt (s : State) (x : RegIdx) (b : Byte) : (s.writeV x b).dt = s.dt := rfl
@[simp] theorem State.writeV_st (s : State) (x : RegIdx) (b : Byte) : (s.writeV x b).st = s.st := rfl
@[simp] theorem State.writeV_keys (s : State) (x : RegIdx) (b : Byte) : (s.writeV x b).keys = s.keys := rfl
@[simp] theorem State.writeV_fb (s : State) (x : RegIdx) (b : Byte) : (s.writeV x b).fb = s.fb := rfl
@[simp] theorem State.writeV_ready (s : State) (x : RegIdx) (b : Byte) : (s.writeV x b).ready = s.ready := rfl
@[simp] theorem State.writeV_fault (s : State) (x : RegIdx) (b : Byte) : (s.writeV x b).fault = s.fault := rfl
@[simp] theorem State.writeV_stackMarker (s : State) (x : RegIdx) (b : Byte) : (s.writeV x b).stackMarker = s.stackMarker := rfl
@[simp] theorem State.writeV_font (s : State) (x : RegIdx) (b : Byte) : (s.writeV x b).font = s.font := rfl
@[simp] theorem State.writeV_draws (s : State) (x : RegIdx) (b : Byte) : (s.writeV x b).draws = s.draws := rfl

/-! ### setI -/

@[simp] theorem State.setI_mem (s : State) (a : Word) : (s.setI a).mem = s.mem := rfl
@[simp] theorem State.setI_v (s : State) (a : Word) : (s.setI a).v = s.v := rfl
@[simp] theorem State.setI_i (s : State) (a : Word) : (s.setI a).i = a := rfl
@[simp] theorem State.setI_pc (s : State) (a : Word) : (s.setI a).pc = s.pc := rfl
@[simp] theorem State.setI_sp (s : State) (a : Word) : (s.setI a).sp = s.sp := rfl
@[simp] theorem State.setI_stack (s : State) (a : Word) : (s.setI a).stack = s.stack := rfl
@[simp] theorem State.setI_dt (s : State) (a : Word) : (s.setI a).dt = s.dt := rfl
@[simp] theorem State.setI_st (s : State) (a : Word) : (s.setI a).st = s.st := rfl
@[simp] theorem State.setI_keys (s : State) (a : Word) : (s.setI a).keys = s.keys := rfl
@[simp] theorem State.setI_fb (s : State) (a : Word) : (s.setI a).fb = s.fb := rfl
@[simp] theorem State.setI_ready (s : State) (a : Word) : (s.setI a).ready = s.ready := rfl
@[simp] theorem State.setI_fault (s : State) (a : Word) : (s.setI a).fault = s.fault := rfl
@[simp] theorem State.setI_stackMarker (s : State) (a : Word) : (s.setI a).stackMarker = s.stackMarker := rfl
@[simp] theorem State.setI_font (s : State) (a : Word) : (s.setI a).font = s.font := rfl
@[simp] theorem State.setI_draws (s : State) (a : Word) : (s.setI a).draws = s.draws := rfl

/-! ### setPc -/

@[simp] theorem State.setPc_mem (s : State) (a : Word) : (s.setPc a).mem = s.mem := rfl
@[simp] theorem State.setPc_v (s : State) (a : Word) : (s.setPc a).v = s.v := rfl
@[simp] theorem State.setPc_i (s : State) (a : Word) : (s.setPc a).i = s.i := rfl
@[simp] theorem State.setPc_pc (s : State) (a : Word) : (s.setPc a).pc = a := rfl
@[simp] theorem State.setPc_sp (s : State) (a : Word) : (s.setPc a).sp = s.sp := rfl
@[simp] theorem State.setPc_stack (s : State) (a : Word) : (s.setPc a).stack = s.stack := rfl
@[simp] theorem State.setPc_dt (s : State) (a : Word) : (s.setPc a).dt = s.dt := rfl
@[simp] theorem State.setPc_st (s : State) (a : Word) : (s.setPc a).st = s.st := rfl
@[simp] theorem State.setPc_keys (s : State) (a : Word) : (s.setPc a).keys = s.keys := rfl
@[simp] theorem State.setPc_fb (s : State) (a : Word) : (s.setPc a).fb = s.fb := rfl
@[simp] theorem State.setPc_ready (s : State) (a : Word) : (s.setPc a).ready = s.ready := rfl
@[simp] theorem State.setPc_fault (s : State) (a : Word) : (s.setPc a).fault = s.fault := rfl
@[simp] theorem State.setPc_stackMarker (s : State) (a : Word) : (s.setPc a).stackMarker = s.stackMarker := rfl
@[simp] theorem State.setPc_font (s : State) (a : Word) : (s.setPc a).font = s.font := rfl
@[simp] theorem State.setPc_draws (s : State) (a : Word) : (s.setPc a).draws = s.draws := rfl

/-! ### advancePc -/

@[simp] theorem State.advancePc_mem (s : State) : (s.advancePc).mem = s.mem := rfl
@[simp] theorem State.advancePc_v (s : State) : (s.advancePc).v = s.v := rfl
@[simp] theorem State.advancePc_i (s : State) : (s.advancePc).i = s.i := rfl
@[simp] theorem State.advancePc_pc (s : State) : (s.advancePc).pc = s.pc + 2 := rfl
@[simp] theorem State.advancePc_sp (s : State) : (s.advancePc).sp = s.sp := rfl
@[simp] theorem State.advancePc_stack (s : State) : (s.advancePc).stack = s.stack := rfl
@[simp] theorem State.advancePc_dt (s : State) : (s.advancePc).dt = s.dt := rfl
@[simp] theorem State.advancePc_st (s : State) : (s.advancePc).st = s.st := rfl
@[simp] theorem State.advancePc_keys (s : State) : (s.advancePc).keys = s.keys := rfl
@[simp] theorem State.advancePc_fb (s : State) : (s.advancePc).fb = s.fb := rfl
@[simp] theorem State.advancePc_ready (s : State) : (s.advancePc).ready = s.ready := rfl
@[simp] theorem State.advancePc_fault (s : State) : (s.advancePc).fault = s.fault := rfl
@[simp] theorem State.advancePc_stackMarker (s : State) : (s.advancePc).stackMarker = s.stackMarker := rfl
@[simp] theorem State.advancePc_font (s : State) : (s.advancePc).font = s.font := rfl
@[simp] theorem State.advancePc_draws (s : State) : (s.advancePc).draws = s.draws := rfl

/-! ### setDt -/

@[simp] theorem State.setDt_mem (s : State) (b : Byte) : (s.setDt b).mem = s.mem := rfl
@[simp] theorem State.setDt_v (s : State) (b : Byte) : (s.setDt b).v = s.v := rfl
@[simp] theorem State.setDt_i (s : State) (b : Byte) : (s.setDt b).i = s.i := rfl
@[simp] theorem State.setDt_pc (s : State) (b : Byte) : (s.setDt b).pc = s.pc := rfl
@[simp] theorem State.setDt_sp (s : State) (b : Byte) : (s.setDt b).sp = s.sp := rfl
@[simp] theorem State.setDt_stack (s : State) (b : Byte) : (s.setDt b).stack = s.stack := rfl
@[simp] theorem State.setDt_dt (s : State) (b : Byte) : (s.setDt b).dt = b := rfl
@[simp] theorem State.setDt_st (s : State) (b : Byte) : (s.setDt b).st = s.st := rfl
@[simp] theorem State.setDt_keys (s : State) (b : Byte) : (s.setDt b).keys = s.keys := rfl
@[simp] theorem State.setDt_fb (s : State) (b : Byte) : (s.setDt b).fb = s.fb := rfl
@[simp] theorem State.setDt_ready (s : State) (b : Byte) : (s.setDt b).ready = s.ready := rfl
@[simp] theorem State.setDt_fault (s : State) (b : Byte) : (s.setDt b).fault = s.fault := rfl
@[simp] theorem State.setDt_stackMarker (s : State) (b : Byte) : (s.setDt b).stackMarker = s.stackMarker := rfl
@[simp] theorem State.setDt_font (s : State) (b : Byte) : (s.setDt b).font = s.font := rfl
@[simp] theorem State.setDt_draws (s : State) (b : Byte) : (s.setDt b).draws = s.draws := rfl

/-! ### setSt -/

@[simp] theorem State.setSt_mem (s : State) (b : Byte) : (s.setSt b).mem = s.mem := rfl
@[simp] theorem State.setSt_v (s : State) (b : Byte) : (s.setSt b).v = s.v := rfl
@[simp] theorem State.setSt_i (s : State) (b : Byte) : (s.setSt b).i = s.i := rfl
@[simp] theorem State.setSt_pc (s : State) (b : Byte) : (s.setSt b).pc = s.pc := rfl
@[simp] theorem State.setSt_sp (s : State) (b : Byte) : (s.setSt b).sp = s.sp := rfl
@[simp] theorem State.setSt_stack (s : State) (b : Byte) : (s.setSt b).stack = s.stack := rfl
@[simp] theorem State.setSt_dt (s : State) (b : Byte) : (s.setSt b).dt = s.dt := rfl
@[simp] theorem State.setSt_st (s : State) (b : Byte) : (s.setSt b).st = b := rfl
@[simp] theorem State.setSt_keys (s : State) (b : Byte) : (s.setSt b).keys = s.keys := rfl
@[simp] theorem State.setSt_fb (s : State) (b : Byte) : (s.setSt b).fb = s.fb := rfl
@[simp] theorem State.setSt_ready (s : State) (b : Byte) : (s.setSt b).ready = s.ready := rfl
@[simp] theorem State.setSt_fault (s : State) (b : Byte) : (s.setSt b).fault = s.fault := rfl
@[simp] theorem State.setSt_stackMarker (s : State) (b : Byte) : (s.setSt b).stackMarker = s.stackMarker := rfl
@[simp] theorem State.setSt_font (s : State) (b : Byte) : (s.setSt b).font = s.font := rfl
@[simp] theorem State.setSt_draws (s : State) (b : Byte) : (s.setSt b).draws = s.draws := rfl

/-! ### storeBytes -/

@[simp] theorem State.storeBytes_mem (s : State) (base : Nat) (bs : List Byte) : (s.storeBytes base bs).mem = s.mem.writeBytes s.font base bs := rfl
@[simp] theorem State.storeBytes_v (s : State) (base : Nat) (bs : List Byte) : (s.storeBytes base bs).v = s.v := rfl
@[simp] theorem State.storeBytes_i (s : State) (base : Nat) (bs : List Byte) : (s.storeBytes base bs).i = s.i := rfl
@[simp] theorem State.storeBytes_pc (s : State) (base : Nat) (bs : List Byte) : (s.storeBytes base bs).pc = s.pc := rfl
@[simp] theorem State.storeBytes_sp (s : State) (base : Nat) (bs : List Byte) : (s.storeBytes base bs).sp = s.sp := rfl
@[simp] theorem State.storeBytes_stack (s : State) (base : Nat) (bs : List Byte) : (s.storeBytes base bs).stack = s.stack := rfl
@[simp] theorem State.storeBytes_dt (s : State) (base : Nat) (bs : List Byte) : (s.storeBytes base bs).dt = s.dt := rfl
@[simp] theorem State.storeBytes_st (s : State) (base : Nat) (bs : List Byte) : (s.storeBytes base bs).st = s.st := rfl
@[simp] theorem State.storeBytes_keys (s : State) (base : Nat) (bs : List Byte) : (s.storeBytes base bs).keys = s.keys := rfl
@[simp] theorem State.storeBytes_fb (s : State) (base : Nat) (bs : List Byte) : (s.storeBytes base bs).fb = s.fb := rfl
@[simp] theorem State.storeBytes_ready (s : State) (base : Nat) (bs : List Byte) : (s.storeBytes base bs).ready = s.ready := rfl
@[simp] theorem State.storeBytes_fault (s : State) (base : Nat) (bs : List Byte) : (s.storeBytes base bs).fault = s.fault := rfl
@[simp] theorem State.storeBytes_stackMarker (s : State) (base : Nat) (bs : List Byte) : (s.storeBytes base bs).stackMarker = s.stackMarker := rfl
@[simp] theorem State.storeBytes_font (s : State) (base : Nat) (bs : List Byte) : (s.storeBytes base bs).font = s.font := rfl
@[simp] theorem State.storeBytes_draws (s : State) (base : Nat) (bs : List Byte) : (s.storeBytes base bs).draws = s.draws := rfl

/-! ### markIf -/

@[simp] theorem State.markIf_mem (s : State) (c : Bool) : (s.markIf c).mem = s.mem := rfl
@[simp] theorem State.markIf_v (s : State) (c : Bool) : (s.markIf c).v = s.v := rfl
@[simp] theorem State.markIf_i (s : State) (c : Bool) : (s.markIf c).i = s.i := rfl
@[simp] theorem State.markIf_pc (s : State) (c : Bool) : (s.markIf c).pc = s.pc := rfl
@[simp] theorem State.markIf_sp (s : State) (c : Bool) : (s.markIf c).sp = s.sp := rfl
@[simp] theorem State.markIf_stack (s : State) (c : Bool) : (s.markIf c).stack = s.stack := rfl
@[simp] theorem State.markIf_dt (s : State) (c : Bool) : (s.markIf c).dt = s.dt := rfl
@[simp] theorem State.markIf_st (s : State) (c : Bool) : (s.markIf c).st = s.st := rfl
@[simp] theorem State.markIf_keys (s : State) (c : Bool) : (s.markIf c).keys = s.keys := rfl
@[simp] theorem State.markIf_fb (s : State) (c : Bool) : (s.markIf c).fb = s.fb := rfl
@[simp] theorem State.markIf_ready (s : State) (c : Bool) : (s.markIf c).ready = s.ready := rfl
@[simp] theorem State.markIf_fault (s : State) (c : Bool) : (s.markIf c).fault = s.fault := rfl
@[simp] theorem State.markIf_stackMarker (s : State) (c : Bool) : (s.markIf c).stackMarker = (s.stackMarker || c) := rfl
@[simp] theorem State.markIf_font (s : State) (c : Bool) : (s.markIf c).font = s.font := rfl
@[simp] theorem State.markIf_draws (s : State) (c : Bool) : (s.markIf c).draws = s.draws := rfl

/-! ### push -/

@[simp] theorem State.push_mem (s : State) (a : Word) : (s.push a).mem = s.mem := rfl
@[simp] theorem State.push_v (s : State) (a : Word) : (s.push a).v = s.v := rfl
@[simp] theorem State.push_i (s : State) (a : Word) : (s.push a).i = s.i := rfl
@[simp] theorem State.push_pc (s : State) (a : Word) : (s.push a).pc = s.pc := rfl
@[simp] theorem State.push_sp (s : State) (a : Word) : (s.push a).sp = s.sp + 1 := rfl
@[simp] theorem State.push_stack (s : State) (a : Word) : (s.push a).stack = s.stack.set (stackSlot s.sp) a := rfl
@[simp] theorem State.push_dt (s : State) (a : Word) : (s.push a).dt = s.dt := rfl
@[simp] theorem State.push_st (s : State) (a : Word) : (s.push a).st = s.st := rfl
@[simp] theorem State.push_keys (s : State) (a : Word) : (s.push a).keys = s.keys := rfl
@[simp] theorem State.push_fb (s : State) (a : Word) : (s.push a).fb = s.fb := rfl
@[simp] theorem State.push_ready (s : State) (a : Word) : (s.push a).ready = s.ready := rfl
@[simp] theorem State.push_fault (s : State) (a : Word) : (s.push a).fault = s.fault := rfl
@[simp] theorem State.push_stackMarker (s : State) (a : Word) : (s.push a).stackMarker = (s.stackMarker || decide (16 ≤ s.sp.toNat)) := rfl
@[simp] theorem State.push_font (s : State) (a : Word) : (s.push a).font = s.font := rfl
@[simp] theorem State.push_draws (s : State) (a : Word) : (s.push a).draws = s.draws := rfl

/-! ### pop -/

@[simp] theorem State.pop_mem (s : State) : (s.pop).mem = s.mem := rfl
@[simp] theorem State.pop_v (s : State) : (s.pop).v = s.v := rfl
@[simp] theorem State.pop_i (s : State) : (s.pop).i = s.i := rfl
@[simp] theorem State.pop_pc (s : State) : (s.pop).pc = s.pc := rfl
@[simp] theorem State.pop_sp (s : State) : (s.pop).sp = s.sp - 1 := rfl
@[simp] theorem State.pop_stack (s : State) : (s.pop).stack = s.stack := rfl
@[simp] theorem State.pop_dt (s : State) : (s.pop).dt = s.dt := rfl
@[simp] theorem State.pop_st (s : State) : (s.pop).st = s.st := rfl
@[simp] theorem State.pop_keys (s : State) : (s.pop).keys = s.keys := rfl
@[simp] theorem State.pop_fb (s : State) : (s.pop).fb = s.fb := rfl
@[simp] theorem State.pop_ready (s : State) : (s.pop).ready = s.ready := rfl
@[simp] theorem State.pop_fault (s : State) : (s.pop).fault = s.fault := rfl
@[simp] theorem State.pop_stackMarker (s : State) : (s.pop).stackMarker = (s.stackMarker || decide (s.sp.toNat = 0 ∨ 16 < s.sp.toNat)) := rfl
@[simp] theorem State.pop_font (s : State) : (s.pop).font = s.font := rfl
@[simp] theorem State.pop_draws (s : State) : (s.pop).draws = s.draws := rfl

/-! ### countDraw -/

@[simp] theorem State.countDraw_mem (s : State) : (s.countDraw).mem = s.mem := rfl
@[simp] theorem State.countDraw_v (s : State) : (s.countDraw).v = s.v := rfl
@[simp] theorem State.countDraw_i (s : State) : (s.countDraw).i = s.i := rfl
@[simp] theorem State.countDraw_pc (s : State) : (s.countDraw).pc = s.pc := rfl
@[simp] theorem State.countDraw_sp (s : State) : (s.countDraw).sp = s.sp := rfl
@[simp] theorem State.countDraw_stack (s : State) : (s.countDraw).stack = s.stack := rfl
@[simp] theorem State.countDraw_dt (s : State) : (s.countDraw).dt = s.dt := rfl
@[simp] theorem State.countDraw_st (s : State) : (s.countDraw).st = s.st := rfl
@[simp] theorem State.countDraw_keys (s : State) : (s.countDraw).keys = s.keys := rfl
@[simp] theorem State.countDraw_fb (s : State) : (s.countDraw).fb = s.fb := rfl
@[simp] theorem State.countDraw_ready (s : State) : (s.countDraw).ready = s.ready := rfl
@[simp] theorem State.countDraw_fault (s : State) : (s.countDraw).fault = s.fault := rfl
@[simp] theorem State.countDraw_stackMarker (s : State) : (s.countDraw).stackMarker = s.stackMarker := rfl
@[simp] theorem State.countDraw_font (s : State) : (s.countDraw).font = s.font := rfl
@[simp] theorem State.countDraw_draws (s : State) : (s.countDraw).draws = s.draws + 1 := rfl

/-! ### tick -/

@[simp] theorem State.tick_mem (s : State) : (s.tick).mem = s.mem := rfl
@[simp] theorem State.tick_v (s : State) : (s.tick).v = s.v := rfl
@[simp] theorem State.tick_i (s : State) : (s.tick).i = s.i := rfl
@[simp] theorem State.tick_pc (s : State) : (s.tick).pc = s.pc := rfl
@[simp] theorem State.tick_sp (s : State) : (s.tick).sp = s.sp := rfl
@[simp] theorem State.tick_stack (s : State) : (s.tick).stack = s.stack := rfl
@[simp] theorem State.tick_dt (s : State) : (s.tick).dt = countDown s.dt := rfl
@[simp] theorem State.tick_st (s : State) : (s.tick).st = countDown s.st := rfl
@[simp] theorem State.tick_keys (s : State) : (s.tick).keys = s.keys := rfl
@[simp] theorem State.tick_fb (s : State) : (s.tick).fb = s.fb := rfl
@[simp] theorem State.tick_ready (s : State) : (s.tick).ready = s.ready := rfl
@[simp] theorem State.tick_fault (s : State) : (s.tick).fault = s.fault := rfl
@[simp] theorem State.tick_stackMarker (s : State) : (s.tick).stackMarker = s.stackMarker := rfl
@[simp] theorem State.tick_font (s : State) : (s.tick).font = s.font := rfl
@[simp] theorem State.tick_draws (s : State) : (s.tick).draws = s.draws := rfl

/-! ### recordFault -/

@[simp] theorem State.recordFault_mem (s : State) (r : Fault) : (s.recordFault r).mem = s.mem := rfl
@[simp] theorem State.recordFault_v (s : State) (r : Fault) : (s.recordFault r).v = s.v := rfl
@[simp] theorem State.recordFault_i (s : State) (r : Fault) : (s.recordFault r).i = s.i := rfl
@[simp] theorem State.recordFault_pc (s : State) (r : Fault) : (s.recordFault r).pc = s.pc := rfl
@[simp] theorem State.recordFault_sp (s : State) (r : Fault) : (s.recordFault r).sp = s.sp := rfl
@[simp] theorem State.recordFault_stack (s : State) (r : Fault) : (s.recordFault r).stack = s.stack := rfl
@[simp] theorem State.recordFault_dt (s : State) (r : Fault) : (s.recordFault r).dt = s.dt := rfl
@[simp] theorem State.recordFault_st (s : State) (r : Fault) : (s.recordFault r).st = s.st := rfl
@[simp] theorem State.recordFault_keys (s : State) (r : Fault) : (s.recordFault r).keys = s.keys := rfl
@[simp] theorem State.recordFault_fb (s : State) (r : Fault) : (s.recordFault r).fb = s.fb := rfl
@[simp] theorem State.recordFault_ready (s : State) (r : Fault) : (s.recordFault r).ready = s.ready := rfl
@[simp] theorem State.recordFault_fault (s : State) (r : Fault) : (s.recordFault r).fault = some r := rfl
@[simp] theorem State.recordFault_stackMarker (s : State) (r : Fault) : (s.recordFault r).stackMarker = s.stackMarker := rfl
@[simp] theorem State.recordFault_font (s : State) (r : Fault) : (s.recordFault r).font = s.font := rfl
@[simp] theorem State.recordFault_draws (s : State) (r : Fault) : (s.recordFault r).draws = s.draws := rfl

/-! ### setFlag -/

@[simp] theorem State.setFlag_mem (s : State) (c : Bool) : (s.setFlag c).mem = s.mem := rfl
@[simp] theorem State.setFlag_v (s : State) (c : Bool) : (s.setFlag c).v = s.v.set vf (flagByte c) := rfl
@[simp] theorem State.setFlag_i (s : State) (c : Bool) : (s.setFlag c).i = s.i := rfl
@[simp] theorem State.setFlag_pc (s : State) (c : Bool) : (s.setFlag c).pc = s.pc := rfl
@[simp] theorem State.setFlag_sp (s : State) (c : Bool) : (s.setFlag c).sp = s.sp := rfl
@[simp] theorem State.setFlag_stack (s : State) (c : Bool) : (s.setFlag c).stack = s.stack := rfl
@[simp] theorem State.setFlag_dt (s : State) (c : Bool) : (s.setFlag c).dt = s.dt := rfl
@[simp] theorem State.setFlag_st (s : State) (c : Bool) : (s.setFlag c).st = s.st := rfl
@[simp] theorem State.setFlag_keys (s : State) (c : Bool) : (s.setFlag c).keys = s.keys := rfl
@[simp] theorem State.setFlag_fb (s : State) (c : Bool) : (s.setFlag c).fb = s.fb := rfl
@[simp] theorem State.setFlag_ready (s : State) (c : Bool) : (s.setFlag c).ready = s.ready := rfl
@[simp] theorem State.setFlag_fault (s : State) (c : Bool) : (s.setFlag c).fault = s.fault := rfl
@[simp] theorem State.setFlag_stackMarker (s : State) (c : Bool) : (s.setFlag c).stackMarker = s.stackMarker := rfl
@[simp] theorem State.setFlag_font (s : State) (c : Bool) : (s.setFlag c).font = s.font := rfl
@[simp] theorem State.setFlag_draws (s : State) (c : Bool) : (s.setFlag c).draws = s.draws := rfl

/-! ### writeFlagThenV -/

@[simp] theorem State.writeFlagThenV_mem (s : State) (c : Bool) (x : RegIdx) (b : Byte) : (s.writeFlagThenV c x b).mem = s.mem := rfl
@[simp] theorem State.writeFlagThenV_v (s : State) (c : Bool) (x : RegIdx) (b : Byte) : (s.writeFlagThenV c x b).v = (s.v.set vf (flagByte c)).set x b := rfl
@[simp] theorem State.writeFlagThenV_i (s : State) (c : Bool) (x : RegIdx) (b : Byte) : (s.writeFlagThenV c x b).i = s.i := rfl
@[simp] theorem State.writeFlagThenV_pc (s : State) (c : Bool) (x : RegIdx) (b : Byte) : (s.writeFlagThenV c x b).pc = s.pc := rfl
@[simp] theorem State.writeFlagThenV_sp (s : State) (c : Bool) (x : RegIdx) (b : Byte) : (s.writeFlagThenV c x b).sp = s.sp := rfl
@[simp] theorem State.writeFlagThenV_stack (s : State) (c : Bool) (x : RegIdx) (b : Byte) : (s.writeFlagThenV c x b).stack = s.stack := rfl
@[simp] theorem State.writeFlagThenV_dt (s : State) (c : Bool) (x : RegIdx) (b : Byte) : (s.writeFlagThenV c x b).dt = s.dt := rfl
@[simp] theorem State.writeFlagThenV_st (s : State) (c : Bool) (x : RegIdx) (b : Byte) : (s.writeFlagThenV c x b).st = s.st := rfl
@[simp] theorem State.writeFlagThenV_keys (s : State) (c : Bool) (x : RegIdx) (b : Byte) : (s.writeFlagThenV c x b).keys = s.keys := rfl
@[simp] theorem State.writeFlagThenV_fb (s : State) (c : Bool) (x : RegIdx) (b : Byte) : (s.writeFlagThenV c x b).fb = s.fb := rfl
@[simp] theorem State.writeFlagThenV_ready (s : State) (c : Bool) (x : RegIdx) (b : Byte) : (s.writeFlagThenV c x b).ready = s.ready := rfl
@[simp] theorem State.writeFlagThenV_fault (s : State) (c : Bool) (x : RegIdx) (b : Byte) : (s.writeFlagThenV c x b).fault = s.fault := rfl
@[simp] theorem State.writeFlagThenV_stackMarker (s : State) (c : Bool) (x : RegIdx) (b : Byte) : (s.writeFlagThenV c x b).stackMarker = s.stackMarker := rfl
@[simp] theorem State.writeFlagThenV_font (s : State) (c : Bool) (x : RegIdx) (b : Byte) : (s.writeFlagThenV c x b).font = s.font := rfl
@[simp] theorem State.writeFlagThenV_draws (s : State) (c : Bool) (x : RegIdx) (b : Byte) : (s.writeFlagThenV c x b).draws = s.draws := rfl

/-! ### drawn -/

@[simp] theorem State.drawn_mem (s : State) (p : Framebuffer × Bool) : (s.drawn p).mem = s.mem := rfl
@[simp] theorem State.drawn_v (s : State) (p : Framebuffer × Bool) : (s.drawn p).v = s.v.set vf (flagByte p.2) := rfl
@[simp] theorem State.drawn_i (s : State) (p : Framebuffer × Bool) : (s.drawn p).i = s.i := rfl
@[simp] theorem State.drawn_pc (s : State) (p : Framebuffer × Bool) : (s.drawn p).pc = s.pc := rfl
@[simp] theorem State.drawn_sp (s : State) (p : Framebuffer × Bool) : (s.drawn p).sp = s.sp := rfl
@[simp] theorem State.drawn_stack (s : State) (p : Framebuffer × Bool) : (s.drawn p).stack = s.stack := rfl
@[simp] theorem State.drawn_dt (s : State) (p : Framebuffer × Bool) : (s.drawn p).dt = s.dt := rfl
@[simp] theorem State.drawn_st (s : State) (p : Framebuffer × Bool) : (s.drawn p).st = s.st := rfl
@[simp] theorem State.drawn_keys (s : State) (p : Framebuffer × Bool) : (s.drawn p).keys = s.keys := rfl
@[simp] theorem State.drawn_fb (s : State) (p : Framebuffer × Bool) : (s.drawn p).fb = p.1 := rfl
@[simp] theorem State.drawn_ready (s : State) (p : Framebuffer × Bool) : (s.drawn p).ready = s.ready := rfl
@[simp] theorem State.drawn_fault (s : State) (p : Framebuffer × Bool) : (s.drawn p).fault = s.fault := rfl
@[simp] theorem State.drawn_stackMarker (s : State) (p : Framebuffer × Bool) : (s.drawn p).stackMarker = s.stackMarker := rfl
@[simp] theorem State.drawn_font (s : State) (p : Framebuffer × Bool) : (s.drawn p).font = s.font := rfl
@[simp] theorem State.drawn_draws (s : State) (p : Framebuffer × Bool) : (s.drawn p).draws = s.draws := rfl

/-! ### skipIf -/

@[simp] theorem State.skipIf_mem (s : State) (c : Bool) : (s.skipIf c).mem = s.mem := by cases c <;> rfl
@[simp] theorem State.skipIf_v (s : State) (c : Bool) : (s.skipIf c).v = s.v := by cases c <;> rfl
@[simp] theorem State.skipIf_i (s : State) (c : Bool) : (s.skipIf c).i = s.i := by cases c <;> rfl
@[simp] theorem State.skipIf_pc (s : State) (c : Bool) : (s.skipIf c).pc = if c then s.pc + 2 else s.pc := by cases c <;> rfl
@[simp] theorem State.skipIf_sp (s : State) (c : Bool) : (s.skipIf c).sp = s.sp := by cases c <;> rfl
@[simp] theorem State.skipIf_stack (s : State) (c : Bool) : (s.skipIf c).stack = s.stack := by cases c <;> rfl
@[simp] theorem State.skipIf_dt (s : State) (c : Bool) : (s.skipIf c).dt = s.dt := by cases c <;> rfl
@[simp] theorem State.skipIf_st (s : State) (c : Bool) : (s.skipIf c).st = s.st := by cases c <;> rfl
@[simp] theorem State.skipIf_keys (s : State) (c : Bool) : (s.skipIf c).keys = s.keys := by cases c <;> rfl
@[simp] theorem State.skipIf_fb (s : State) (c : Bool) : (s.skipIf c).fb = s.fb := by cases c <;> rfl
@[simp] theorem State.skipIf_ready (s : State) (c : Bool) : (s.skipIf c).ready = s.ready := by cases c <;> rfl
@[simp] theorem State.skipIf_fault (s : State) (c : Bool) : (s.skipIf c).fault = s.fault := by cases c <;> rfl
@[simp] theorem State.skipIf_stackMarker (s : State) (c : Bool) : (s.skipIf c).stackMarker = s.stackMarker := by cases c <;> rfl
@[simp] theorem State.skipIf_font (s : State) (c : Bool) : (s.skipIf c).font = s.font := by cases c <;> rfl
@[simp] theorem State.skipIf_draws (s : State) (c : Bool) : (s.skipIf c).draws = s.draws := by cases c <;> rfl

end Sys2Proof.Machine
end

