-- ==== Sys2Proof/Laws/Ops.lean ====
section
/-! SUPPORT. One lemma per shared operation that says everything it can do; the provers cite these instead of unfolding. -/

namespace Sys2Proof.Machine

/-! ### Registers -/

theorem State.readV_writeV (s : State) (x k : RegIdx) (b : Byte) :
    (s.writeV x b).readV k = if k = x then b else s.readV k := by
  by_cases h : k = x
  · subst h; simp [State.readV, State.writeV, Vector.get_eq_getElem]
  · have : x.val ≠ k.val := fun e => h (Fin.ext e.symm)
    simp [State.readV, State.writeV, h, Vector.get_eq_getElem, this]

@[simp] theorem State.readV_writeV_same (s : State) (x : RegIdx) (b : Byte) : (s.writeV x b).readV x = b := by
  simp [State.readV_writeV]

theorem State.readV_writeV_other (s : State) {x k : RegIdx} (b : Byte) (h : k ≠ x) :
    (s.writeV x b).readV k = s.readV k := by
  simp [State.readV_writeV, h]

/-- The destination wins over the flag where it is VF (R86). -/
theorem State.readV_writeFlagThenV (s : State) (c : Bool) (x k : RegIdx) (b : Byte) :
    (s.writeFlagThenV c x b).readV k = if k = x then b else if k = vf then flagByte c else s.readV k := by
  simp [State.writeFlagThenV, State.setFlag, State.readV_writeV]

theorem State.readV_drawn (s : State) (p : Framebuffer × Bool) (k : RegIdx) :
    (s.drawn p).readV k = if k = vf then flagByte p.2 else s.readV k := by
  simp [State.drawn, State.setFlag, State.readV_writeV]; rfl

theorem State.getElem_loadRegisters (s : State) (base n : Nat) (k : Nat) (hk : k < 16) :
    (s.loadRegisters base n)[k] = if k < n then s.readByte (base + k) else s.v[k] := by
  induction n with
  | zero => simp [State.loadRegisters]
  | succ n ih =>
    simp only [State.loadRegisters, Vector.getElem_setIfInBounds]
    by_cases h : n = k
    · simp [h]
    · have : k < n ↔ k < n + 1 := by omega
      rw [if_neg h, ih]; simp only [this]

/-- FX65 loads exactly the registers below the count (R103). -/
theorem State.get_loadRegisters (s : State) (base n : Nat) (k : RegIdx) :
    (s.loadRegisters base n).get k = if k.val < n then s.readByte (base + k.val) else s.readV k := by
  simp only [Vector.get_eq_getElem, State.readV]
  exact s.getElem_loadRegisters base n k.val k.isLt

@[simp] theorem State.length_regsUpTo (s : State) (x : RegIdx) : (s.regsUpTo x).length = x.val + 1 := by
  have := x.isLt
  simp [State.regsUpTo, regCount]

/-- Byte `k` of what FX55 stores is V[k] (R102). -/
theorem State.getElem_regsUpTo (s : State) (x k : RegIdx) (h : k ≤ x) :
    (s.regsUpTo x)[k.val]'(by simp; omega) = s.readV k := by
  simp [State.regsUpTo, State.readV, Vector.get_eq_getElem]

/-! ### Memory -/

theorem State.readByte_eq (s : State) (a : Nat) : s.readByte a = s.mem.read s.font a := rfl

@[simp] theorem State.length_readBytes (s : State) (n : Nat) : ∀ base, (s.readBytes base n).length = n := by
  induction n with
  | zero => intro _; rfl
  | succ n ih => intro base; simp [State.readBytes, ih]

/-- Byte `k` of a block read is the byte at base + k. -/
theorem State.getElem_readBytes (s : State) (n : Nat) : ∀ (base k : Nat) (h : k < (s.readBytes base n).length),
    (s.readBytes base n)[k] = s.readByte (base + k) := by
  induction n with
  | zero => intro _ _ h; simp [State.readBytes] at h
  | succ n ih =>
    intro base k h
    cases k with
    | zero => simp [State.readBytes]
    | succ k =>
      simp only [State.readBytes, List.getElem_cons_succ]
      rw [ih (base + 1) k (by simpa using h)]
      congr 1; omega

theorem State.readByte_storeBytes_inside (s : State) (base : Nat) (bs : List Byte) (k : Nat) (h : k < bs.length) :
    (s.storeBytes base bs).readByte (base + k) = bs[k] :=
  Memory.read_writeBytes_inside bs s.mem base k h

theorem State.readByte_storeBytes_outside (s : State) (base : Nat) (bs : List Byte) (a : Nat)
    (h : a < base ∨ base + bs.length ≤ a) : (s.storeBytes base bs).readByte a = s.readByte a :=
  Memory.read_writeBytes_outside bs s.mem base a h

/-! ### Checks -/

theorem checkRange_inside {base n : Nat} (h : base + n ≤ Config.memSize) (k : Result) : checkRange base n k = k :=
  if_pos h

theorem checkRange_outside {base n : Nat} (h : Config.memSize < base + n) (k : Result) :
    checkRange base n k = .fault (.memoryOutOfRange (max base Config.memSize)) :=
  if_neg (by omega)

/-- A range check either goes on, inside the address space, or raises the one fault (R104). -/
theorem checkRange_cases (base n : Nat) (k : Result) :
    (base + n ≤ Config.memSize ∧ checkRange base n k = k) ∨
    (Config.memSize < base + n ∧ checkRange base n k = .fault (.memoryOutOfRange (max base Config.memSize))) := by
  rcases Nat.lt_or_ge Config.memSize (base + n) with h | h
  · exact .inr ⟨h, checkRange_outside h k⟩
  · exact .inl ⟨h, checkRange_inside h k⟩

theorem checkRange_next {base n : Nat} {k : Result} {t : State} (h : checkRange base n k = .next t) :
    base + n ≤ Config.memSize ∧ k = .next t := by
  rcases checkRange_cases base n k with ⟨hb, e⟩ | ⟨_, e⟩
  · exact ⟨hb, e ▸ h⟩
  · rw [e] at h; cases h

theorem checkKey_inside {a : Byte} (h : a.toNat < 16) (k : KeyIdx → Result) : checkKey a k = k ⟨a.toNat, h⟩ := dif_pos h

theorem checkKey_outside {a : Byte} (h : 15 < a.toNat) (k : KeyIdx → Result) :
    checkKey a k = .fault (.keyIndexOutOfRange a) := dif_neg (by omega)

/-- A key check either goes on with the key of that number, or raises the one fault (R111). -/
theorem checkKey_cases (a : Byte) (k : KeyIdx → Result) :
    (∃ h : a.toNat < 16, checkKey a k = k ⟨a.toNat, h⟩) ∨
    (15 < a.toNat ∧ checkKey a k = .fault (.keyIndexOutOfRange a)) := by
  rcases Nat.lt_or_ge a.toNat 16 with h | h
  · exact .inl ⟨h, checkKey_inside h k⟩
  · exact .inr ⟨h, checkKey_outside h k⟩

/-! ### Keys and draws -/

theorem mem_allKeys (k : KeyIdx) : k ∈ allKeys := by revert k; decide

/-- P of R110 holds exactly the pressed keys. -/
theorem State.mem_pressedKeys (s : State) (k : KeyIdx) : k ∈ s.pressedKeys ↔ s.pressed k = true := by
  simp [State.pressedKeys, mem_allKeys]

theorem State.pressedKeys_eq_nil (s : State) : s.pressedKeys = [] ↔ ∀ k, s.pressed k = false := by
  simp [List.eq_nil_iff_forall_not_mem, State.mem_pressedKeys]

/-- A choice is one of the list's members (R10). -/
theorem State.nextChoice_mem (s : State) (k : KeyIdx) (ks : List KeyIdx) : s.nextChoice k ks ∈ k :: ks := by
  have h : Config.keySelect s.draws % (ks.length + 1) < (k :: ks).length := Nat.mod_lt _ (by simp)
  rw [State.nextChoice, List.getD_eq_getElem _ _ h]
  exact List.getElem_mem h

/-! ### Timers -/

theorem toNat_countDown (b : Byte) : (countDown b).toNat = b.toNat - 1 := by
  revert b; decide

/-! ### The framebuffer -/

theorem Framebuffer.lit_flip (fb : Framebuffer) (y y' : Fin 32) (x x' : Fin 64) :
    (fb.flip y x).lit y' x' = if y' = y ∧ x' = x then !fb.lit y x else fb.lit y' x' := by
  by_cases hy : y' = y
  · subst hy
    by_cases hx : x' = x
    · subst hx; simp [Framebuffer.flip, Framebuffer.lit, Vector.get_eq_getElem]
    · have : x.val ≠ x'.val := fun e => hx (Fin.ext e.symm)
      simp [Framebuffer.flip, Framebuffer.lit, Vector.get_eq_getElem, hx, this]
  · have : y.val ≠ y'.val := fun e => hy (Fin.ext e.symm)
    simp [Framebuffer.flip, Framebuffer.lit, Vector.get_eq_getElem, hy, this]

@[simp] theorem lit_blankFb (y : Fin 32) (x : Fin 64) : Framebuffer.lit blankFb y x = false := by
  simp [Framebuffer.lit, blankFb, Vector.get_eq_getElem]

/-- Two framebuffers with the same cells are equal. -/
theorem Framebuffer.ext_lit {fb gb : Framebuffer} (h : ∀ y x, fb.lit y x = gb.lit y x) : fb = gb := by
  refine Vector.ext fun y hy => Vector.ext fun x hx => ?_
  simpa [Framebuffer.lit, Vector.get_eq_getElem] using h ⟨y, hy⟩ ⟨x, hx⟩

/-! ### The cycle -/

/-- Execute never refuses (R67): it answers a next state or raises one of the faults of R123. -/
theorem exec_not_refused (i : Instr) (s : State) (q : Refusal) : exec i s ≠ .refused q := by
  have hr : ∀ b n (t : State), checkRange b n (.next t) ≠ .refused q := by
    intro b n t
    rcases checkRange_cases b n (.next t) with ⟨_, e⟩ | ⟨_, e⟩ <;> rw [e] <;> simp
  have hk : ∀ a (f : KeyIdx → State), checkKey a (fun k => .next (f k)) ≠ .refused q := by
    intro a f
    rcases checkKey_cases a (fun k => .next (f k)) with ⟨_, e⟩ | ⟨_, e⟩ <;> rw [e] <;> simp
  cases i
  case drw x y n =>
    show execDrw x y n s ≠ _
    unfold execDrw
    split
    · simp
    · exact hr _ _ _
  case skp x => exact hk (s.readV x) (fun k => s.skipIf (s.pressed k))
  case sknp x => exact hk (s.readV x) (fun k => s.skipIf (!s.pressed k))
  case ldVxK x =>
    show execLdVxK x s ≠ _
    unfold execLdVxK
    split <;> simp
  case ldB x => exact hr _ _ _
  case storeRegs x => exact hr _ _ _
  case loadRegs x => exact hr _ _ _
  all_goals exact fun h => by cases h

end Sys2Proof.Machine
end

