-- ==== Sys2Proof/Laws/Frames.lean ====
section
/-! SUPPORT. What each shared operation leaves unchanged, said in the terms of Safety.lean. -/

namespace Sys2Proof.Machine

/-! ### The relation -/

theorem UnchangedExcept.refl (l : List Part) (s : State) : UnchangedExcept l s s := by
  intro p _
  cases p <;> simp [Part.same]

theorem UnchangedExcept.mono {l l' : List Part} {s t : State} (h : UnchangedExcept l s t) (hl : l ⊆ l') :
    UnchangedExcept l' s t := fun p hp => h p fun hm => hp (hl hm)

theorem UnchangedExcept.trans {l : List Part} {s t u : State} (h : UnchangedExcept l s t) (h' : UnchangedExcept l t u) :
    UnchangedExcept l s u := by
  intro p hp
  have a := h p hp
  have b := h' p hp
  cases p <;> simp_all [Part.same]

theorem UnchangedExcept.symm {l : List Part} {s t : State} (h : UnchangedExcept l s t) : UnchangedExcept l t s := by
  intro p hp
  have a := h p hp
  cases p <;> simp_all [Part.same]

/-- Where the fields themselves are equal the pieces are the same. -/
theorem Part.same_of_fields {s t : State} (p : Part)
    (h : match p with
      | .mem => t.mem = s.mem ∧ t.font = s.font | .v => t.v = s.v | .i => t.i = s.i | .pc => t.pc = s.pc | .sp => t.sp = s.sp
      | .stack => t.stack = s.stack | .dt => t.dt = s.dt | .st => t.st = s.st | .keys => t.keys = s.keys
      | .fb => t.fb = s.fb | .ready => t.ready = s.ready | .fault => t.fault = s.fault
      | .stackMarker => t.stackMarker = s.stackMarker | .font => t.font = s.font | .draws => t.draws = s.draws) : p.same s t := by
  cases p <;> simp_all [Part.same, State.readByte, State.readV, State.pressed]

/-! ### The operations -/

theorem unchanged_writeV (s : State) (x : RegIdx) (b : Byte) : UnchangedExcept [.v] s (s.writeV x b) := by
  intro p hp; cases p <;> first | exact Part.same_of_fields _ rfl | exact Part.same_of_fields _ ⟨rfl, rfl⟩ | simp at hp

theorem unchanged_writeFlagThenV (s : State) (c : Bool) (x : RegIdx) (b : Byte) :
    UnchangedExcept [.v] s (s.writeFlagThenV c x b) := by
  intro p hp; cases p <;> first | exact Part.same_of_fields _ rfl | exact Part.same_of_fields _ ⟨rfl, rfl⟩ | simp at hp

theorem unchanged_setI (s : State) (a : Word) : UnchangedExcept [.i] s (s.setI a) := by
  intro p hp; cases p <;> first | exact Part.same_of_fields _ rfl | exact Part.same_of_fields _ ⟨rfl, rfl⟩ | simp at hp

theorem unchanged_setPc (s : State) (a : Word) : UnchangedExcept [.pc] s (s.setPc a) := by
  intro p hp; cases p <;> first | exact Part.same_of_fields _ rfl | exact Part.same_of_fields _ ⟨rfl, rfl⟩ | simp at hp

theorem unchanged_advancePc (s : State) : UnchangedExcept [.pc] s s.advancePc := unchanged_setPc s _

theorem unchanged_skipIf (s : State) (c : Bool) : UnchangedExcept [.pc] s (s.skipIf c) := by
  cases c
  · exact UnchangedExcept.refl _ s
  · exact unchanged_setPc s _

theorem unchanged_setDt (s : State) (b : Byte) : UnchangedExcept [.dt] s (s.setDt b) := by
  intro p hp; cases p <;> first | exact Part.same_of_fields _ rfl | exact Part.same_of_fields _ ⟨rfl, rfl⟩ | simp at hp

theorem unchanged_setSt (s : State) (b : Byte) : UnchangedExcept [.st] s (s.setSt b) := by
  intro p hp; cases p <;> first | exact Part.same_of_fields _ rfl | exact Part.same_of_fields _ ⟨rfl, rfl⟩ | simp at hp

theorem unchanged_tick (s : State) : UnchangedExcept [.dt, .st] s s.tick := by
  intro p hp; cases p <;> first | exact Part.same_of_fields _ rfl | exact Part.same_of_fields _ ⟨rfl, rfl⟩ | simp at hp

theorem unchanged_recordFault (s : State) (r : Fault) : UnchangedExcept [.fault] s (s.recordFault r) := by
  intro p hp; cases p <;> first | exact Part.same_of_fields _ rfl | exact Part.same_of_fields _ ⟨rfl, rfl⟩ | simp at hp

theorem unchanged_countDraw (s : State) : UnchangedExcept [.draws] s s.countDraw := by
  intro p hp; cases p <;> first | exact Part.same_of_fields _ rfl | exact Part.same_of_fields _ ⟨rfl, rfl⟩ | simp at hp

theorem unchanged_storeBytes (s : State) (base : Nat) (bs : List Byte) :
    UnchangedExcept [.mem] s (s.storeBytes base bs) := by
  intro p hp; cases p <;> first | exact Part.same_of_fields _ rfl | exact Part.same_of_fields _ ⟨rfl, rfl⟩ | simp at hp

theorem bytesUnchanged_storeBytes (s : State) (base : Nat) (bs : List Byte) :
    BytesUnchangedOutside base bs.length s (s.storeBytes base bs) :=
  fun a ha => State.readByte_storeBytes_outside s base bs a ha

theorem unchanged_push (s : State) (a : Word) : UnchangedExcept [.sp, .stack, .stackMarker] s (s.push a) := by
  intro p hp; cases p <;> first | exact Part.same_of_fields _ rfl | exact Part.same_of_fields _ ⟨rfl, rfl⟩ | simp at hp

theorem unchanged_pop (s : State) : UnchangedExcept [.sp, .stackMarker] s s.pop := by
  intro p hp; cases p <;> first | exact Part.same_of_fields _ rfl | exact Part.same_of_fields _ ⟨rfl, rfl⟩ | simp at hp

theorem unchanged_drawn (s : State) (q : Framebuffer × Bool) : UnchangedExcept [.v, .fb] s (s.drawn q) := by
  intro p hp; cases p <;> first | exact Part.same_of_fields _ rfl | exact Part.same_of_fields _ ⟨rfl, rfl⟩ | simp at hp

theorem regsUnchanged_writeV (s : State) (x : RegIdx) (b : Byte) : RegsUnchangedExcept [x] s (s.writeV x b) :=
  fun _ hk => State.readV_writeV_other s b (by simpa using hk)

theorem regsUnchanged_writeFlagThenV (s : State) (c : Bool) (x : RegIdx) (b : Byte) :
    RegsUnchangedExcept [x, vf] s (s.writeFlagThenV c x b) := by
  intro k hk
  simp only [List.mem_cons, List.not_mem_nil, or_false, not_or] at hk
  rw [State.readV_writeFlagThenV, if_neg hk.1, if_neg hk.2]

theorem regsUnchanged_drawn (s : State) (q : Framebuffer × Bool) : RegsUnchangedExcept [vf] s (s.drawn q) := by
  intro k hk
  rw [State.readV_drawn, if_neg (by simpa using hk)]

/-! ### One cell of the blitter -/

/-- One turn of the inner loop inverts its target cell when the sprite bit is 1, and no other cell (R115 to R118). -/
theorem lit_drawCell (x0 y0 : Byte) (row : Nat) (b : Byte) (acc : Framebuffer × Bool) (col : Nat) (y : Fin 32) (x : Fin 64) :
    (drawCell x0 y0 row b acc col).1.lit y x =
      if spriteBit b col = true ∧ y.val = (y0.toNat + row) % 32 ∧ x.val = (x0.toNat + col) % 64
      then !acc.1.lit y x else acc.1.lit y x := by
  have hy : y = Fin.ofNat 32 (y0.toNat + row) ↔ y.val = (y0.toNat + row) % 32 := by simp [Fin.ext_iff, Fin.ofNat]
  have hx : x = Fin.ofNat 64 (x0.toNat + col) ↔ x.val = (x0.toNat + col) % 64 := by simp [Fin.ext_iff, Fin.ofNat]
  unfold drawCell
  by_cases hb : spriteBit b col = true
  · simp only [hb, if_true, Framebuffer.lit_flip, hy, hx, true_and]
    split
    · next h => rw [hy.2 h.1, hx.2 h.2]
    · rfl
  · simp [hb]

/-- It reports a collision when the sprite bit is 1 and its target was lit, and keeps an earlier report (R117). -/
theorem collision_drawCell (x0 y0 : Byte) (row : Nat) (b : Byte) (acc : Framebuffer × Bool) (col : Nat) :
    (drawCell x0 y0 row b acc col).2 =
      (acc.2 || spriteBit b col && acc.1.lit (Fin.ofNat 32 (y0.toNat + row)) (Fin.ofNat 64 (x0.toNat + col))) := by
  unfold drawCell
  cases spriteBit b col <;> simp

end Sys2Proof.Machine
end

