-- ==== Sys2Proof/Laws/HostApi.lean ====
section
/-! SUPPORT. What the host's calls do (R144 to R146, R137). -/

namespace Sys2Proof.Machine

theorem imageFits_iff (bytes : List Byte) : imageFits bytes = true ↔ bytes.length ≤ 3584 := by
  simp [imageFits, Config.programOrigin, Config.memSize]

/-- An image that fits is copied to 0x200 and makes the engine ready (R145). -/
theorem loadProgram_fits {bytes : List Byte} (h : bytes.length ≤ 3584) (s : State) :
    loadProgram bytes s = (.success, { s.storeBytes 0x200 bytes with ready := true }) := by
  simp only [loadProgram, (imageFits_iff bytes).2 h, if_true, Config.programOrigin]

/-- One that does not is refused: nothing is written and the engine is unready (R146). -/
theorem loadProgram_tooLong {bytes : List Byte} (h : 3584 < bytes.length) (s : State) :
    loadProgram bytes s = (.capacityExceeded, { s with ready := false }) := by
  have : imageFits bytes = false := by
    rw [← Bool.not_eq_true, imageFits_iff]
    omega
  simp only [loadProgram, this, Bool.false_eq_true, if_false]

@[simp] theorem hostCall_loadProgram (bytes : List Byte) (s : State) :
    hostCall (.loadProgram bytes) s = (.load (loadProgram bytes s).1, (loadProgram bytes s).2) := rfl

@[simp] theorem hostCall_init (s : State) : hostCall .init s = (.nothing, s.init) := rfl

@[simp] theorem hostCall_setKey (k : KeyIdx) (p : Bool) (s : State) :
    hostCall (.setKey k p) s = (.nothing, setKey k p s) := rfl

/-- A key write changes that key and no other (R138). -/
theorem pressed_setKey (k j : KeyIdx) (p : Bool) (s : State) :
    (setKey k p s).pressed j = if j = k then p else s.pressed j := by
  by_cases h : j = k
  · subst h; simp [State.pressed, setKey, Vector.get_eq_getElem]
  · have : k.val ≠ j.val := fun e => h (Fin.ext e.symm)
    simp [State.pressed, setKey, h, Vector.get_eq_getElem, this]

end Sys2Proof.Machine
end

