-- ==== Sys2Proof/Laws/PerInstr.lean ====
section
/-! SUPPORT. A statement for all instructions, one lemma per constructor: the encoder puts the fixed bits of the instruction's
row of spec/opcode_table.json where the table has them (R60). -/

namespace Sys2Proof.Laws.TableBits

/-- The word of the instruction has its row's fixed bits. -/
def Statement (i : Instr) : Prop := rowMatches i.rowNumber (encode i) = true

/-- The mask of the rows of formats A and XB, and of the rows whose low nibble is not examined. -/
theorem mask_ofAddr (f : Nibble) (nnn : Addr12) : ofAddr f nnn &&& 0xF000#16 = ofAddr f 0 := by
  apply BitVec.eq_of_getLsbD_eq
  intro i hi
  interval_cases i <;> simp only [ofAddr, BitVec.getLsbD_and, BitVec.getLsbD_append] <;> simp

theorem mask_family_ofRegByte (f : Nibble) (x : RegIdx) (nn : Byte) :
    ofRegByte f x nn &&& 0xF000#16 = ofAddr f 0 := by
  apply BitVec.eq_of_getLsbD_eq
  intro i hi
  interval_cases i <;> simp only [ofAddr, ofRegByte, BitVec.getLsbD_and, BitVec.getLsbD_append] <;> simp

theorem mask_byte_ofRegByte (f : Nibble) (x : RegIdx) (nn : Byte) :
    ofRegByte f x nn &&& 0xF0FF#16 = ofRegByte f 0 nn := by
  apply BitVec.eq_of_getLsbD_eq
  intro i hi
  interval_cases i <;> simp only [ofRegByte, BitVec.getLsbD_and, BitVec.getLsbD_append] <;> simp [regNibble]

theorem mask_family_ofNibbles (f x y n : Nibble) : ofNibbles f x y n &&& 0xF000#16 = ofAddr f 0 := by
  apply BitVec.eq_of_getLsbD_eq
  intro i hi
  interval_cases i <;> simp only [ofAddr, ofNibbles, BitVec.getLsbD_and, BitVec.getLsbD_append] <;> simp

theorem mask_nibble_ofNibbles (f x y n : Nibble) : ofNibbles f x y n &&& 0xF00F#16 = ofNibbles f 0 0 n := by
  apply BitVec.eq_of_getLsbD_eq
  intro i hi
  interval_cases i <;> simp only [ofNibbles, BitVec.getLsbD_and, BitVec.getLsbD_append] <;> simp

theorem mask_byte_ofNibbles (f x y n : Nibble) : ofNibbles f x y n &&& 0xF0FF#16 = ofNibbles f 0 y n := by
  apply BitVec.eq_of_getLsbD_eq
  intro i hi
  interval_cases i <;> simp only [ofNibbles, BitVec.getLsbD_and, BitVec.getLsbD_append] <;> simp

/-- A row matches a word whose bits under the row's mask are the row's. -/
theorem rowMatches_of {n : Nat} {mask fixed w u : Word} (h : tableRows[n - 1]? = some (mask, fixed)) (hu : w &&& mask = u)
    (e : u = fixed) : rowMatches n w = true := by
  simp [rowMatches, h, hu, e]

theorem sys (nnn : Addr12) : Statement (.sys nnn) := rowMatches_of rfl (mask_ofAddr _ _) rfl
theorem cls (x : Nibble) : Statement (.cls x) := rowMatches_of rfl (mask_byte_ofNibbles _ _ _ _) rfl
theorem ret (x : Nibble) : Statement (.ret x) := rowMatches_of rfl (mask_byte_ofNibbles _ _ _ _) rfl
theorem jp (nnn : Addr12) : Statement (.jp nnn) := rowMatches_of rfl (mask_ofAddr _ _) rfl
theorem call (nnn : Addr12) : Statement (.call nnn) := rowMatches_of rfl (mask_ofAddr _ _) rfl
theorem seByte (x : RegIdx) (nn : Byte) : Statement (.seByte x nn) := rowMatches_of rfl (mask_family_ofRegByte _ _ _) rfl
theorem sneByte (x : RegIdx) (nn : Byte) : Statement (.sneByte x nn) := rowMatches_of rfl (mask_family_ofRegByte _ _ _) rfl
theorem seReg (x : RegIdx) (y : RegIdx) (n : Nibble) : Statement (.seReg x y n) := rowMatches_of rfl (mask_family_ofNibbles _ _ _ _) rfl
theorem ldByte (x : RegIdx) (nn : Byte) : Statement (.ldByte x nn) := rowMatches_of rfl (mask_family_ofRegByte _ _ _) rfl
theorem addByte (x : RegIdx) (nn : Byte) : Statement (.addByte x nn) := rowMatches_of rfl (mask_family_ofRegByte _ _ _) rfl
theorem ldReg (x : RegIdx) (y : RegIdx) : Statement (.ldReg x y) := rowMatches_of rfl (mask_nibble_ofNibbles _ _ _ _) rfl
theorem orReg (x : RegIdx) (y : RegIdx) : Statement (.orReg x y) := rowMatches_of rfl (mask_nibble_ofNibbles _ _ _ _) rfl
theorem andReg (x : RegIdx) (y : RegIdx) : Statement (.andReg x y) := rowMatches_of rfl (mask_nibble_ofNibbles _ _ _ _) rfl
theorem xorReg (x : RegIdx) (y : RegIdx) : Statement (.xorReg x y) := rowMatches_of rfl (mask_nibble_ofNibbles _ _ _ _) rfl
theorem addReg (x : RegIdx) (y : RegIdx) : Statement (.addReg x y) := rowMatches_of rfl (mask_nibble_ofNibbles _ _ _ _) rfl
theorem sub (x : RegIdx) (y : RegIdx) : Statement (.sub x y) := rowMatches_of rfl (mask_nibble_ofNibbles _ _ _ _) rfl
theorem shr (x : RegIdx) (y : RegIdx) : Statement (.shr x y) := rowMatches_of rfl (mask_nibble_ofNibbles _ _ _ _) rfl
theorem subn (x : RegIdx) (y : RegIdx) : Statement (.subn x y) := rowMatches_of rfl (mask_nibble_ofNibbles _ _ _ _) rfl
theorem shl (x : RegIdx) (y : RegIdx) : Statement (.shl x y) := rowMatches_of rfl (mask_nibble_ofNibbles _ _ _ _) rfl
theorem sneReg (x : RegIdx) (y : RegIdx) (n : Nibble) : Statement (.sneReg x y n) := rowMatches_of rfl (mask_family_ofNibbles _ _ _ _) rfl
theorem ldI (nnn : Addr12) : Statement (.ldI nnn) := rowMatches_of rfl (mask_ofAddr _ _) rfl
theorem jpV0 (nnn : Addr12) : Statement (.jpV0 nnn) := rowMatches_of rfl (mask_ofAddr _ _) rfl
theorem rnd (x : RegIdx) (nn : Byte) : Statement (.rnd x nn) := rowMatches_of rfl (mask_family_ofRegByte _ _ _) rfl
theorem drw (x : RegIdx) (y : RegIdx) (n : Nibble) : Statement (.drw x y n) := rowMatches_of rfl (mask_family_ofNibbles _ _ _ _) rfl
theorem skp (x : RegIdx) : Statement (.skp x) := rowMatches_of rfl (mask_byte_ofRegByte _ _ _) rfl
theorem sknp (x : RegIdx) : Statement (.sknp x) := rowMatches_of rfl (mask_byte_ofRegByte _ _ _) rfl
theorem ldVxDt (x : RegIdx) : Statement (.ldVxDt x) := rowMatches_of rfl (mask_byte_ofRegByte _ _ _) rfl
theorem ldVxK (x : RegIdx) : Statement (.ldVxK x) := rowMatches_of rfl (mask_byte_ofRegByte _ _ _) rfl
theorem ldDtVx (x : RegIdx) : Statement (.ldDtVx x) := rowMatches_of rfl (mask_byte_ofRegByte _ _ _) rfl
theorem ldStVx (x : RegIdx) : Statement (.ldStVx x) := rowMatches_of rfl (mask_byte_ofRegByte _ _ _) rfl
theorem addI (x : RegIdx) : Statement (.addI x) := rowMatches_of rfl (mask_byte_ofRegByte _ _ _) rfl
theorem ldF (x : RegIdx) : Statement (.ldF x) := rowMatches_of rfl (mask_byte_ofRegByte _ _ _) rfl
theorem ldB (x : RegIdx) : Statement (.ldB x) := rowMatches_of rfl (mask_byte_ofRegByte _ _ _) rfl
theorem storeRegs (x : RegIdx) : Statement (.storeRegs x) := rowMatches_of rfl (mask_byte_ofRegByte _ _ _) rfl
theorem loadRegs (x : RegIdx) : Statement (.loadRegs x) := rowMatches_of rfl (mask_byte_ofRegByte _ _ _) rfl

end Sys2Proof.Laws.TableBits
end

