-- ==== Sys2Proof/Laws/Step.lean ====
section
/-! SUPPORT. What one step can do, said once. -/

namespace Sys2Proof.Machine

theorem State.status_running (s : State) : s.status = .running ↔ s.ready = true ∧ s.fault = none := by
  unfold State.status
  cases s.fault <;> cases s.ready <;> simp

/-- Execute on a decoded word never refuses. -/
theorem execDecoded_not_refused (d : Decoded) (s : State) (q : Refusal) : execDecoded d s ≠ .refused q := by
  cases d with
  | instr i => exact exec_not_refused i s q
  | unrecognised u => exact fun h => by cases h

/-- The fetch and execute part of a cycle faults at the fetch, faults in execute, or has executed (R64 to R67). -/
theorem fetchAndExecute_cases (s : State) :
    (Config.memSize < s.pc.toNat + 2 ∧
      fetchAndExecute s = .fault (.memoryOutOfRange (max s.pc.toNat Config.memSize))) ∨
    (s.pc.toNat + 2 ≤ Config.memSize ∧ fetchAndExecute s = execDecoded s.nextDecoded s.advancePc) := by
  rcases checkRange_cases s.pc.toNat 2 (execDecoded s.nextDecoded s.advancePc) with ⟨h, e⟩ | ⟨h, e⟩
  · exact .inr ⟨h, e⟩
  · exact .inl ⟨h, e⟩

/-- All that a step can do when it answers a next state: the engine is running, and either the cycle's fault is recorded in the
state it started with, or the word at PC has been executed with PC advanced and the timers ticked (R63, R69, R70). -/
theorem step_cases {s t : State} (h : step s = .next t) :
    s.ready = true ∧ s.fault = none ∧
    ((∃ f, fetchAndExecute s = .fault f ∧ t = s.recordFault f) ∨
     (∃ u, s.pc.toNat + 2 ≤ Config.memSize ∧ execDecoded s.nextDecoded s.advancePc = .next u ∧ t = u.tick)) := by
  unfold step cycle at h
  split at h
  · next hs =>
    obtain ⟨hr, hf⟩ := (State.status_running s).1 hs
    refine ⟨hr, hf, ?_⟩
    unfold endCycle at h
    split at h
    · next u hu =>
      rcases fetchAndExecute_cases s with ⟨_, e⟩ | ⟨hb, e⟩
      · rw [e] at hu; cases hu
      · exact .inr ⟨u, hb, e ▸ hu, by injection h with h; exact h.symm⟩
    · next f hf => exact .inl ⟨f, hf, by injection h with h; exact h.symm⟩
    · cases h
  · cases h
  · cases h

end Sys2Proof.Machine
end

