-- ==== Sys2Proof/Tests/Slice0.lean ====
section
/-! SUPPORT. Small tests: the ill-formed terms, a word for every constructor, one-cycle vectors of spec/95_test_vectors.md (named in
each comment), and a concrete witness for the hypotheses of every statement that has some. -/

namespace Sys2Proof.Tests

open Sys2Proof Sys2Proof.Machine

/-! ### Well-formedness (R54) -/

theorem test_wf_refuses_sys_of_cls : (Instr.sys 0x3E0).wf = false := by decide
theorem test_wf_refuses_sys_of_ret : (Instr.sys 0x0EE).wf = false := by decide
theorem test_wf_accepts_sys : (Instr.sys 0x123).wf = true := by decide

/-! ### A word for every constructor, written from the encodings of R60 -/

theorem test_decode_sys : decodeWord 0x0123 = .instr (.sys 0x123) := by decide
theorem test_decode_cls : decodeWord 0x00E0 = .instr (.cls 0) := by decide
theorem test_decode_ret : decodeWord 0x00EE = .instr (.ret 0) := by decide
theorem test_decode_jp : decodeWord 0x1234 = .instr (.jp 0x234) := by decide
theorem test_decode_call : decodeWord 0x2400 = .instr (.call 0x400) := by decide
theorem test_decode_seByte : decodeWord 0x3A05 = .instr (.seByte 0xA 0x05) := by decide
theorem test_decode_sneByte : decodeWord 0x4B06 = .instr (.sneByte 0xB 0x06) := by decide
theorem test_decode_seReg : decodeWord 0x5121 = .instr (.seReg 1 2 1) := by decide
theorem test_decode_ldByte : decodeWord 0x6105 = .instr (.ldByte 1 0x05) := by decide
theorem test_decode_addByte : decodeWord 0x7325 = .instr (.addByte 3 0x25) := by decide
theorem test_decode_ldReg : decodeWord 0x8AF0 = .instr (.ldReg 0xA 0xF) := by decide
theorem test_decode_orReg : decodeWord 0x8011 = .instr (.orReg 0 1) := by decide
theorem test_decode_andReg : decodeWord 0x8012 = .instr (.andReg 0 1) := by decide
theorem test_decode_xorReg : decodeWord 0x8013 = .instr (.xorReg 0 1) := by decide
theorem test_decode_addReg : decodeWord 0x8F14 = .instr (.addReg 0xF 1) := by decide
theorem test_decode_sub : decodeWord 0x8015 = .instr (.sub 0 1) := by decide
theorem test_decode_shr : decodeWord 0x8236 = .instr (.shr 2 3) := by decide
theorem test_decode_subn : decodeWord 0x8017 = .instr (.subn 0 1) := by decide
theorem test_decode_shl : decodeWord 0x823E = .instr (.shl 2 3) := by decide
theorem test_decode_sneReg : decodeWord 0x912F = .instr (.sneReg 1 2 0xF) := by decide
theorem test_decode_ldI : decodeWord 0xA2F0 = .instr (.ldI 0x2F0) := by decide
theorem test_decode_jpV0 : decodeWord 0xB300 = .instr (.jpV0 0x300) := by decide
theorem test_decode_rnd : decodeWord 0xC081 = .instr (.rnd 0 0x81) := by decide
theorem test_decode_drw : decodeWord 0xD01F = .instr (.drw 0 1 0xF) := by decide
theorem test_decode_skp : decodeWord 0xE49E = .instr (.skp 4) := by decide
theorem test_decode_sknp : decodeWord 0xE4A1 = .instr (.sknp 4) := by decide
theorem test_decode_ldVxDt : decodeWord 0xF207 = .instr (.ldVxDt 2) := by decide
theorem test_decode_ldVxK : decodeWord 0xF30A = .instr (.ldVxK 3) := by decide
theorem test_decode_ldDtVx : decodeWord 0xF115 = .instr (.ldDtVx 1) := by decide
theorem test_decode_ldStVx : decodeWord 0xF118 = .instr (.ldStVx 1) := by decide
theorem test_decode_addI : decodeWord 0xF51E = .instr (.addI 5) := by decide
theorem test_decode_ldF : decodeWord 0xFA29 = .instr (.ldF 0xA) := by decide
theorem test_decode_ldB : decodeWord 0xF333 = .instr (.ldB 3) := by decide
theorem test_decode_storeRegs : decodeWord 0xF255 = .instr (.storeRegs 2) := by decide
theorem test_decode_loadRegs : decodeWord 0xFF65 = .instr (.loadRegs 0xF) := by decide
theorem test_decode_unrecognised_family8 : decodeWord 0x800F = .unrecognised (.family8 0xF) := by decide
theorem test_decode_unrecognised_familyE : decodeWord 0xE000 = .unrecognised (.familyE 0x00) := by decide
theorem test_decode_unrecognised_familyF : decodeWord 0xF0FF = .unrecognised (.familyF 0xFF) := by decide
theorem test_table_word_layout : decodeTableWord 16 0x6A11 = some (.ldByte 0xA 0x11) := by decide

/-! ### One-cycle vectors of spec/95_test_vectors.md, section 2 -/

/-- The start state of the vectors: after init(), running, the word at 0x300 and PC there. -/
def start (w : Word) : State := placeWord { State.reset with pc := 0x300 } w

/-- What `f` sees in the state after one cycle. -/
def after {α : Type} (s : State) (f : State → α) : Option α :=
  match step s with
  | .next t => some (f t)
  | .fault _ => none
  | .refused _ => none

theorem test_CY1_timers_tick : after { start 0x0000 with dt := 5, st := 1 } (fun t => (t.pc, t.dt, t.st)) = some (0x302, 4, 0) := by decide
theorem test_CY2_unrecognised_ticks : after { start 0x8008 with st := 0xFF } (fun t => (t.pc, t.st)) = some (0x302, 0xFE) := by decide
theorem test_CY9_fetch_at_FFF : after { start 0 with pc := 0xFFF } (fun t => (t.pc, t.fault)) = some (0xFFF, some (.memoryOutOfRange 0x1000)) := by decide
theorem test_CY10_fetch_at_10FE : after { start 0 with pc := 0x10FE } State.fault = some (some (.memoryOutOfRange 0x10FE)) := by decide
theorem test_CY11_odd_pc : after (placeWord { State.reset with pc := 0x301 } 0x6A11) (fun t => (t.readV 0xA, t.pc)) = some (0x11, 0x303) := by decide
theorem test_CY12_faulted_has_no_step : after { start 0 with fault := some (.memoryOutOfRange 0x1000) } State.dt = none := by decide
theorem test_CY13_unready_has_no_step : after State.reset State.dt = none := by decide
theorem test_CY14_fault_does_not_tick : after ({ start 0xF033 with dt := 5, i := 0xFFE }.writeV 0 7) (fun t => (t.fault, t.dt, t.pc, t.readByte 0xFFE)) = some (some (.memoryOutOfRange 0x1000), 5, 0x300, 0) := by decide
theorem test_AR2_no_carry : after ((start 0x7301).writeV 3 0xFF) (fun t => (t.readV 3, t.readV 15)) = some (0, 0) := by decide
theorem test_AR3_vf_destination : after ((start 0x7F01).writeV 15 1) (fun t => t.readV 15) = some 2 := by decide
theorem test_AR1_load_vf : after (start 0x6FAB) (fun t => t.readV 15) = some 0xAB := by decide
theorem test_AR4_copy : after ((start 0x8010).writeV 1 0x7A) (fun t => t.readV 0) = some 0x7A := by decide
theorem test_AR5_or_keeps_vf : after ((((start 0x8011).writeV 0 0xF0).writeV 1 0x0F).writeV 15 0x55) (fun t => (t.readV 0, t.readV 15)) = some (0xFF, 0x55) := by decide
theorem test_AR6_and : after (((start 0x8012).writeV 0 0xF0).writeV 1 0x3C) (fun t => t.readV 0) = some 0x30 := by decide
theorem test_AR7_xor : after (((start 0x8013).writeV 0 0xF0).writeV 1 0x3C) (fun t => t.readV 0) = some 0xCC := by decide
theorem test_AR10_sum_wins_in_vf : after (((start 0x8F14).writeV 15 0x10).writeV 1 0xF5) (fun t => t.readV 15) = some 5 := by decide
theorem test_AR11_vf_read_before_written : after (((start 0x81F4).writeV 1 1).writeV 15 0xFF) (fun t => (t.readV 1, t.readV 15)) = some (0, 1) := by decide
theorem test_S2_equal_is_borrow : after (((start 0x8015).writeV 0 0x42).writeV 1 0x42) (fun t => (t.readV 0, t.readV 15)) = some (0, 0) := by decide
theorem test_AR15_difference_wins_in_vf : after (((start 0x8F15).writeV 15 0x10).writeV 1 0x20) (fun t => t.readV 15) = some 0xF0 := by decide
theorem test_AR16_subn : after (((start 0x8017).writeV 0 3).writeV 1 5) (fun t => (t.readV 0, t.readV 15)) = some (2, 1) := by decide
theorem test_AR17_subn_borrow : after (((start 0x8017).writeV 0 5).writeV 1 3) (fun t => (t.readV 0, t.readV 15)) = some (0xFE, 0) := by decide
theorem test_AR19_shr_ignores_y : after (((start 0x8236).writeV 2 5).writeV 3 0xFF) (fun t => (t.readV 2, t.readV 15, t.readV 3)) = some (2, 1, 0xFF) := by decide
theorem test_AR21_shr_of_vf : after ((start 0x8F06).writeV 15 3) (fun t => t.readV 15) = some 1 := by decide
theorem test_AR22_shl : after ((start 0x823E).writeV 2 0x81) (fun t => (t.readV 2, t.readV 15)) = some (2, 1) := by decide
theorem test_AR24_shl_of_vf : after ((start 0x8F0E).writeV 15 0x81) (fun t => t.readV 15) = some 2 := by decide
/-- AR25, for every draw. -/
theorem test_AR25_rnd_mask_zero : after ((start 0xC000).writeV 0 9) (fun t => t.readV 0) = some 0 := by
  show some (Config.draw8 0 &&& 0) = _
  simp
theorem test_CF1_sys : after (start 0x0123) (fun t => t.pc) = some 0x302 := by decide
theorem test_CF3_ret_any_x : after { start 0x0FEE with sp := 1, stack := State.reset.stack.set 0 0x204 } (fun t => (t.sp, t.pc)) = some (0, 0x204) := by decide
theorem test_CF4_ret_underflow : after (start 0x00EE) (fun t => (t.sp, t.pc, t.stackMarker)) = some (0xFF, 0, true) := by decide
theorem test_CF7_self_jump : after (start 0x1300) (fun t => t.pc) = some 0x300 := by decide
theorem test_CF9_call_at_15 : after { start 0x2400 with sp := 15 } (fun t => (t.stack.get 15, t.sp, t.pc, t.stackMarker)) = some (0x302, 16, 0x400, false) := by decide
theorem test_CF10_call_at_16 : after { start 0x2400 with sp := 16 } (fun t => (t.stack.get 0, t.sp, t.stackMarker)) = some (0x302, 17, true) := by decide
theorem test_CF12_se_taken : after ((start 0x3005).writeV 0 5) (fun t => t.pc) = some 0x304 := by decide
theorem test_CF15_sne_not_taken : after ((start 0x4005).writeV 0 5) (fun t => t.pc) = some 0x302 := by decide
theorem test_CF17_se_low_nibble : after (((start 0x5121).writeV 1 0x10).writeV 2 0x10) (fun t => t.pc) = some 0x304 := by decide
theorem test_CF20_sne_low_nibble : after (((start 0x912F).writeV 1 0x10).writeV 2 0x11) (fun t => t.pc) = some 0x304 := by decide
theorem test_CF23_jpV0_not_masked : after ((start 0xBFFF).writeV 0 0xFF) (fun t => t.pc) = some 0x10FE := by decide
theorem test_CF24_jpV0_is_not_bxnn : after (((start 0xB300).writeV 0 1).writeV 3 0x50) (fun t => t.pc) = some 0x301 := by decide
theorem test_MA1_ldI : after (start 0xA2F0) (fun t => t.i) = some 0x2F0 := by decide
theorem test_MA3_addI_no_flag : after ({ start 0xF01E with i := 0xFFF }.writeV 0 1) (fun t => (t.i, t.readV 15)) = some (0x1000, 0) := by decide
theorem test_MA4_addI_wraps : after ({ start 0xF01E with i := 0xFFFF }.writeV 0 2) (fun t => t.i) = some 1 := by decide
theorem test_MA7_ldF_not_masked : after ((start 0xF029).writeV 0 0xFF) (fun t => t.i) = some 0x4FB := by decide
theorem test_S5_bcd : after ({ start 0xF333 with i := 0x310 }.writeV 3 157) (fun t => (t.readByte 0x310, t.readByte 0x311, t.readByte 0x312, t.i)) = some (1, 5, 7, 0x310) := by decide
theorem test_MA15_store_one : after ((({ start 0xF055 with i := 0x400 }).writeV 0 0x11).writeV 1 0x22) (fun t => (t.readByte 0x400, t.readByte 0x401, t.i)) = some (0x11, 0, 0x400) := by decide
theorem test_MA18_store_faults : after { start 0xFF55 with i := 0xFF1 } (fun t => t.fault) = some (some (.memoryOutOfRange 0x1000)) := by decide
theorem test_MA20_load_vf : after ({ start 0xFF65 with i := 0x400 }.storeBytes 0x40F [0xEE]) (fun t => (t.readV 0, t.readV 15)) = some (0, 0xEE) := by decide
/-- MA21, of the default FONT_TABLE. -/
theorem test_MA21_load_glyph : after (start 0xF465) (fun t => (t.readV 0, t.readV 1, t.readV 4)) = some (0xF0, 0x90, 0xF0) := by decide
theorem test_TK1_read_dt : after { start 0xF207 with dt := 0x3C } (fun t => (t.readV 2, t.dt)) = some (0x3C, 0x3B) := by decide
theorem test_TK3_set_dt : after ((start 0xF115).writeV 1 5) (fun t => t.dt) = some 4 := by decide
theorem test_TK5_set_st : after ((start 0xF118).writeV 1 1) (fun t => t.st) = some 0 := by decide
theorem test_TK7_skp : after (setKey 7 true ((start 0xE49E).writeV 4 7)) (fun t => t.pc) = some 0x304 := by decide
theorem test_TK11_skp_faults : after ((start 0xE49E).writeV 4 0x10) (fun t => t.fault) = some (some (.keyIndexOutOfRange 0x10)) := by decide
theorem test_TK9_sknp : after ((start 0xE4A1).writeV 4 7) (fun t => t.pc) = some 0x304 := by decide
theorem test_TK10_sknp_pressed : after (setKey 7 true ((start 0xE4A1).writeV 4 7)) (fun t => t.pc) = some 0x302 := by decide
theorem test_TK13_wait : after { start 0xF30A with dt := 2 } (fun t => (t.pc, t.readV 3, t.dt)) = some (0x300, 0, 1) := by decide
/-- TK14: with one key pressed the draw has one member. -/
theorem test_TK14_key : after (setKey 0xB true (start 0xF30A)) (fun t => (t.readV 3, t.pc)) = some (0xB, 0x302) := by
  have h : (State.nextChoice (State.advancePc (setKey 0xB true (start 0xF30A))) 0xB []) = 0xB := by
    simpa using State.nextChoice_mem (State.advancePc (setKey 0xB true (start 0xF30A))) 0xB []
  show some (BitVec.ofNat 8 (State.nextChoice (State.advancePc (setKey 0xB true (start 0xF30A))) 0xB []).val, _) = _
  rw [h]
  decide
theorem test_DS1_cls : after { start 0x00E0 with fb := Framebuffer.flip blankFb 31 63 } (fun t => t.fb.lit 31 63) = some false := by decide
theorem test_S4_wraps : after ((({ start 0xD011 with i := 0x400 }).writeV 0 60).storeBytes 0x400 [0xFF]) (fun t => (t.fb.lit 0 60, t.fb.lit 0 63, t.fb.lit 0 0, t.fb.lit 0 3, t.fb.lit 0 4, t.readV 15)) = some (true, true, true, true, false, 0) := by decide
theorem test_DS8_collision_DS4_zero_rows : after ({ start 0xD011 with i := 0x400, fb := Framebuffer.flip blankFb 0 1 }.storeBytes 0x400 [0xC0]) (fun t => (t.fb.lit 0 0, t.fb.lit 0 1, t.readV 15)) = some (true, false, 1) ∧
    after ({ start 0xD010 with i := 0xFFFF }.writeV 15 1) (fun t => (t.readV 15, t.fault)) = some (0, none) := by decide
theorem test_RS5_odd_image : (hostCall (.loadProgram [0x12]) State.reset).2.codeWord = 0x1200 := by decide
theorem test_RS3_image_too_long : (hostCall (.loadProgram (List.replicate 3585 0)) State.reset).1 = .load .capacityExceeded := by
  rw [hostCall_loadProgram, loadProgram_tooLong (by rw [List.length_replicate]; decide)]

/-! ### Witnesses: states and operands that meet the hypotheses of each statement -/

theorem test_witness_DecodeOfEncode : (Instr.sys 0x123).wf = true ∧ (Instr.drw 15 15 15).wf = true := by decide
theorem test_witness_EncodeOfDecode : decodeWord 0x0FE0 = .instr (.cls 0xF) := by decide
theorem test_witness_DecoderFollowsTheTable : decodeWord 0xF065 = .instr (.loadRegs 0) ∧ rowMatches 2 0x0FE0 = true ∧
    rowMatches 35 0xFF65 = true ∧ (rowMatches 1 0x0000 = true ∧ rowMatches 2 0x0000 = false ∧ rowMatches 3 0x0000 = false) := by decide

/-- The last word of memory, running: the boundary of every fetch hypothesis. -/
def lastWord (w : Word) : State := placeWord { State.reset with pc := 0xFFE } w

theorem test_witness_StepRunsTheDecodedInstruction : (lastWord 0x6005).ready = true ∧ (lastWord 0x6005).fault = none ∧
    (lastWord 0x6005).pc.toNat + 2 ≤ 0x1000 ∧
    decodeWord (wordOfBytes ((lastWord 0x6005).readByte 0xFFE) ((lastWord 0x6005).readByte 0xFFF)) = .instr (.ldByte 0 5) := by decide
theorem test_witness_PcAdvancesBeforeDispatch_sequential : (lastWord 0x6005).nextDecoded = .instr (.ldByte 0 5) ∧
    Part.pc ∉ (Instr.ldByte 0 5).changes ∧ after (lastWord 0x6005) State.fault = some none := by decide
theorem test_witness_PcAdvancesBeforeDispatch_jump : (lastWord 0x1FFF).nextDecoded = .instr (.jp 0xFFF) ∧
    after (lastWord 0x1FFF) State.fault = some none := by decide
theorem test_witness_PcAdvancesBeforeDispatch_transfers :
    ((lastWord 0x2FFF).nextDecoded = .instr (.call 0xFFF) ∧ after (lastWord 0x2FFF) State.fault = some none) ∧
    ((lastWord 0x00EE).nextDecoded = .instr (.ret 0) ∧ after { lastWord 0x00EE with sp := 16 } State.fault = some none ∧
      ({ lastWord 0x00EE with sp := 16 }).sp.toNat = (15 : Fin 16).val + 1) ∧
    ((lastWord 0xF00A).nextDecoded = .instr (.ldVxK 0) ∧ after (lastWord 0xF00A) (fun t => (t.fault, t.pc)) = some (none, 0xFFE)) := by
  decide
theorem test_witness_PcAdvancesBeforeDispatch_skips : (lastWord 0x4001).nextDecoded = .instr (.sneByte 0 1) ∧
    (lastWord 0x5010).nextDecoded = .instr (.seReg 0 1 0) ∧ (lastWord 0x9010).nextDecoded = .instr (.sneReg 0 1 0) ∧
    (lastWord 0xE09E).nextDecoded = .instr (.skp 0) ∧ (lastWord 0xE0A1).nextDecoded = .instr (.sknp 0) ∧
    (((lastWord 0xE0A1).writeV 0 15).readV 0).toNat = (15 : KeyIdx).val ∧
    after ((lastWord 0xE0A1).writeV 0 15) (fun t => (t.fault, t.pc)) = some (none, 0x1002) := by decide
theorem test_witness_PcAdvancesBeforeDispatch_skip : (lastWord 0x3000).nextDecoded = .instr (.seByte 0 0) ∧
    after (lastWord 0x3000) (fun t => (t.fault, t.pc)) = some (none, 0x1002) ∧
    (lastWord 0x3001).nextDecoded = .instr (.seByte 0 1) ∧
    after (lastWord 0x3001) (fun t => (t.fault, t.pc)) = some (none, 0x1000) := by decide
theorem test_witness_TimersTickOncePerCycle :
    ∃ u, execDecoded (lastWord 0xF015).nextDecoded ((lastWord 0xF015).setPc ((lastWord 0xF015).pc + 2)) = .next u := ⟨_, rfl⟩
theorem test_witness_UnrecognisedWordIsNoOp : (lastWord 0x8008).ready = true ∧ (lastWord 0x8008).fault = none ∧
    (lastWord 0x8008).pc.toNat + 2 ≤ 0x1000 ∧ (lastWord 0x8008).nextDecoded = .unrecognised (.family8 8) := by decide
theorem test_witness_FetchOutOfRangeFaults : ({ lastWord 0 with pc := 0xFFF }).ready = true ∧ ({ lastWord 0 with pc := 0xFFF }).fault = none ∧
    0xFFE < ({ lastWord 0 with pc := 0xFFF }).pc.toNat ∧ 0xFFF < ({ lastWord 0 with pc := 0x1000 }).pc.toNat := by decide
theorem test_witness_FaultingCycleHasNoOtherEffect : ∃ t, step { lastWord 0 with pc := 0xFFF } = .next t ∧ t.fault ≠ none :=
  ⟨_, rfl, by simp [State.recordFault]⟩
theorem test_witness_CycleStepsExactlyWhenRunning : (lastWord 0).ready = true ∧ (lastWord 0).fault = none ∧
    ({ lastWord 0 with fault := some (.keyIndexOutOfRange 16) }).fault ≠ none ∧
    State.reset.fault = none ∧ State.reset.ready = false := by decide
/-- Each case of the statement at the lowest operand value that faults, and next to it the highest that does not. -/
theorem test_witness_FaultsAreExactlyThese_range : 0xFFF < ({ State.reset with i := 0xFFE }).i.toNat + 2 ∧
    ¬0xFFF < ({ State.reset with i := 0xFFD }).i.toNat + 2 ∧ 0xFFF < ({ State.reset with i := 0xFF1 }).i.toNat + (15 : RegIdx).val ∧
    ¬0xFFF < ({ State.reset with i := 0xFF0 }).i.toNat + (15 : RegIdx).val ∧
    0xFFF < ({ State.reset with i := 0x1000 }).i.toNat + (1 : Nibble).toNat - 1 ∧
    ¬0xFFF < ({ State.reset with i := 0xFFF }).i.toNat + (1 : Nibble).toNat - 1 := by decide
theorem test_witness_FaultsAreExactlyThese_key : 15 < ((State.reset.writeV 0 16).readV 0).toNat ∧
    ¬15 < ((State.reset.writeV 0 15).readV 0).toNat := by decide
theorem test_witness_LoadByteResult : (0x6FFF : Word) &&& 0xF000 = 0x6000 := by decide
theorem test_witness_flag_clauses : (0 : RegIdx) ≠ 15 := by decide
theorem test_witness_ReturnResult_slot : (15 : Fin 16).val = (State.reset.sp.toNat + 255) % 16 := by decide
theorem test_witness_CallThenReturnComesBack : ∃ t, exec (.call 0x400) { State.reset with sp := 0xFF } = .next t ∧
    UnchangedExcept [.mem, .v, .i, .pc, .dt, .st, .keys, .fb, .stackMarker, .font, .draws] t (t.setPc 0x400) := by
  refine ⟨_, rfl, ?_⟩
  intro p hp
  cases p <;> simp_all [Part.same]
theorem test_witness_StoreDecimalDigitsResult : ({ State.reset with i := 0xFFD }).i.toNat + 2 ≤ 0xFFF := by decide
theorem test_witness_StoreRegistersResult : ({ State.reset with i := 0xFF0 }).i.toNat + (15 : RegIdx).val ≤ 0xFFF := by decide
theorem test_witness_LoadRegistersResult : ({ State.reset with i := 0xFFF }).i.toNat + (0 : RegIdx).val ≤ 0xFFF := by decide
theorem test_witness_StoreThenLoadRestoresRegisters : ∃ t, exec (.storeRegs 1) { State.reset with i := 0xFFE } = .next t ∧
    UnchangedExcept [.v, .pc, .sp, .stack, .dt, .st, .keys, .fb, .ready, .fault, .stackMarker, .font, .draws] t (t.writeV 0 7) := by
  refine ⟨_, rfl, ?_⟩
  intro p hp
  cases p <;> simp_all [Part.same, State.readByte]
theorem test_witness_StoredCodeIsFetched : (∃ t, exec (.storeRegs 1) { State.reset with i := 0xFFE } = .next t) ∧ (1 : RegIdx) ≤ 1 ∧
    (1 : RegIdx).val = (0 : RegIdx).val + 1 ∧ (0xFFE : Word).toNat = ({ State.reset with i := 0xFFE }).i.toNat + (0 : RegIdx).val :=
  ⟨⟨_, rfl⟩, by decide, by decide, by decide⟩
theorem test_witness_CanonicalMemoryIsUnique : Memory.wf Config.defaultFontTable [(0x200, 0x60), (0xFFF, 1)] := by decide
theorem test_witness_TimersAreWrittenAndReadAsStated : (∃ t, exec (.sys 0) State.reset = .next t) ∧
    (∃ t, step (lastWord 0xF015) = .next t ∧ t.fault = none) ∧ (∀ x, Instr.sys 0 ≠ .ldVxDt x) ∧
    (∀ x, Instr.sys 0 ≠ .ldDtVx x) ∧ (∀ x, Instr.sys 0 ≠ .ldStVx x) :=
  ⟨⟨_, rfl⟩, ⟨_, rfl, rfl⟩, by simp, by simp, by simp⟩
theorem test_witness_TimerSetInACycleIsOneLower : (lastWord 0xF115).ready = true ∧ (lastWord 0xF115).fault = none ∧
    (lastWord 0xF115).pc.toNat + 2 ≤ 0x1000 ∧ (lastWord 0xF115).nextDecoded = .instr (.ldDtVx 1) ∧
    (lastWord 0xF118).nextDecoded = .instr (.ldStVx 1) := by decide
theorem test_witness_KeySkipResults : ((State.reset.writeV 4 15).readV 4).toNat = (15 : KeyIdx).val := by decide
theorem test_witness_KeyWaitResult : (∀ k, State.reset.pressed k = false) ∧ (setKey 15 true State.reset).pressed 15 = true := by decide
theorem test_witness_KeyWaitRepeats : (lastWord 0xF30A).ready = true ∧ (lastWord 0xF30A).fault = none ∧
    (lastWord 0xF30A).pc.toNat + 2 ≤ 0x1000 ∧ (lastWord 0xF30A).nextDecoded = .instr (.ldVxK 3) ∧
    (∀ k, (lastWord 0xF30A).pressed k = false) := by decide
theorem test_witness_KeysBelongToTheHost : (∃ t, step (lastWord 0x6005) = .next t) ∧
    (∃ t, runMoves [.call (.setKey 1 true), .cycle] (lastWord 0x6005) = .next t) ∧
    Move.call .init ∉ [Move.call (.setKey 1 true), Move.cycle] ∧
    (∀ p, Move.call (.setKey 0 p) ∉ [Move.call (.setKey 1 true), Move.cycle]) :=
  ⟨⟨_, rfl⟩, ⟨_, rfl⟩, by decide, by decide⟩
/-- N = 0 with I outside memory, and N = 2 on the last two bytes. -/
theorem test_witness_DrawResult : ([] : List Byte).length = (0 : Nibble).toNat ∧
    ({ State.reset with i := 0xFFE }).i.toNat + (2 : Nibble).toNat - 1 ≤ 0xFFF ∧ ([0, 0] : List Byte).length = (2 : Nibble).toNat ∧
    (∀ k, k < (2 : Nibble).toNat → ([0, 0] : List Byte).getD k 0 = ({ State.reset with i := 0xFFE }).readByte (0xFFE + k)) := by decide
theorem test_witness_DrawResult_cells : SpriteCovers 63 31 [0xC0, 0xC0] 0 0 ∧ ¬SpriteCovers 63 31 [] 0 0 := by
  refine ⟨⟨1, 1, by decide⟩, ?_⟩
  rintro ⟨r, c, h, _⟩
  simp at h
/-- With nothing lit, no cell a sprite targets is lit; with the target lit, one is. -/
theorem test_witness_DrawResult_collision : (∀ r c, SpriteCovers 0 0 [0x80] r c → Framebuffer.lit blankFb r c = false) ∧
    (SpriteCovers 0 0 [0x80] 0 0 ∧ (Framebuffer.flip blankFb 0 0).lit 0 0 = true) :=
  ⟨fun r c _ => lit_blankFb r c, ⟨0, 0, by decide⟩, by decide⟩
theorem test_witness_BlitterInvertsTheWrappedCells : (List.replicate 15 (0xFF : Byte)).length ≤ 15 := by decide
theorem test_witness_DrawingTwiceRestores : ([] : List Byte).length ≤ 15 := by decide
theorem test_witness_EveryInstructionKeepsItsFrame : (∃ t, exec (.drw 0 1 5) State.reset = .next t) ∧ (Instr.drw 0 1 5).writesReg 0 = false :=
  ⟨⟨_, rfl⟩, by decide⟩
theorem test_witness_UnnamedRegistersDoNotMatter : (Instr.sub 0 1).readsReg 15 = false := by decide
theorem test_witness_StackPointerBelongsToCallAndReturn : (∀ nnn, Instr.jp 0 ≠ .call nnn) ∧ (∀ x, Instr.jp 0 ≠ .ret x) ∧
    (∃ t, exec (.jp 0) State.reset = .next t) := ⟨by simp, by simp, ⟨_, rfl⟩⟩
theorem test_witness_StackMarkerChangesNothing : ∃ t, step { lastWord 0 with stackMarker := true } = .next t := ⟨_, rfl⟩
theorem test_witness_ResetValues : State.reset = State.resetWith Config.defaultFontTable ∧
    State.resetWith (Vector.replicate 80 1) = (hostCall .init (State.resetWith (Vector.replicate 80 1))).2 := ⟨rfl, rfl⟩
/-- Another font than the default, read back as data (R36: FONT_TABLE is an argument). -/
theorem test_another_font : (placeWord (State.resetWith (Vector.replicate 80 0x3C)) 0x6005).readByte 0x4F = 0x3C ∧
    (State.reset.init).readByte 0x4F = 0x80 := by decide
theorem test_witness_LoadProgramResult : (List.replicate 3584 (0 : Byte)).length ≤ 3584 ∧ 3584 < (List.replicate 3585 (0 : Byte)).length := by
  rw [List.length_replicate, List.length_replicate]
  decide
theorem test_witness_BootRunsTheFirstWord : ([] : List Byte).length ≤ 3582 ∧ decodeWord (wordOfBytes 0x60 0x05) = .instr (.ldByte 0 5) := by decide
/-- A running state that meets the invariant and has a step. -/
theorem test_witness_InvariantKeptByEveryStep : (lastWord 0x2400).Inv ∧ ∃ t, step (lastWord 0x2400) = .next t := by
  refine ⟨⟨by decide, by decide, by decide, by decide, ?_⟩, ⟨_, rfl⟩⟩
  intro f hf
  cases hf
theorem test_witness_RunsStayWithinTheBounds : ∃ t, runMoves [.call (.setKey 0 true), .cycle] (lastWord 0x2400) = .next t ∧ t.safe :=
  ⟨_, rfl, rfl, rfl⟩

end Sys2Proof.Tests
end

/-! SUPPORT. The pieces of the state that the execute step of most instructions neither reads nor writes: the stack and its pointer,
the timers, and the engine's status (R21 to R24, R28, R29, R31). One lemma says it: changing these pieces commutes with `exec`. Both that
such a piece is not read and that it is not written follow from that. -/

namespace Sys2Proof

/-- The instructions whose execute step reads or writes the stack, its pointer or a timer (R21 to R24). -/
def Instr.usesIdle : Instr → Bool
  | .ret _ | .call _ | .ldVxDt _ | .ldDtVx _ | .ldStVx _ => true
  | _ => false

end Sys2Proof

namespace Sys2Proof.Machine

/-- The idle pieces: of all instructions only CALL, RET and the three timer moves read or write one; the rest is the cycle's and the
host's. -/
structure Idle where
  sp : Byte
  stack : Vector Word 16
  dt : Byte
  st : Byte
  ready : Bool
  fault : Option Fault
  stackMarker : Bool

/-- The idle pieces of a state. -/
def State.idle (s : State) : Idle where
  sp := s.sp
  stack := s.stack
  dt := s.dt
  st := s.st
  ready := s.ready
  fault := s.fault
  stackMarker := s.stackMarker

/-- The state with its idle pieces changed by `g` and every other piece as it was. -/
def State.mapIdle (g : Idle → Idle) (s : State) : State :=
  { s with
    sp := (g s.idle).sp, stack := (g s.idle).stack, dt := (g s.idle).dt, st := (g s.idle).st,
    ready := (g s.idle).ready, fault := (g s.idle).fault, stackMarker := (g s.idle).stackMarker }

/-- A result with its next state, if it has one, changed by `f`. -/
def mapNext (f : State → State) : Result → Result
  | .next s => .next (f s)
  | .fault r => .fault r
  | .refused q => .refused q

/-! ### What commutes with a change of the state -/

theorem mapNext_checkRange (f : State → State) (base n : Nat) (k : Result) :
    mapNext f (checkRange base n k) = checkRange base n (mapNext f k) :=
  apply_ite (mapNext f) _ _ _

theorem mapNext_checkKey (f : State → State) (a : Byte) (k : KeyIdx → Result) :
    mapNext f (checkKey a k) = checkKey a fun j => mapNext f (k j) :=
  apply_dite (mapNext f) _ _ _

theorem State.skipIf_mapIdle (g : Idle → Idle) (s : State) (c : Bool) :
    (s.mapIdle g).skipIf c = (s.skipIf c).mapIdle g := by
  cases c <;> rfl

theorem checkKey_skipIf_mapIdle (g : Idle → Idle) (s : State) (a : Byte) (c : KeyIdx → Bool) :
    checkKey a (fun k => .next ((s.mapIdle g).skipIf (c k))) =
      mapNext (State.mapIdle g) (checkKey a fun k => .next (s.skipIf (c k))) := by
  rw [mapNext_checkKey]
  simp only [State.skipIf_mapIdle]
  rfl

theorem State.readBytes_mapIdle (g : Idle → Idle) (s : State) (n : Nat) :
    ∀ base, (s.mapIdle g).readBytes base n = s.readBytes base n := by
  induction n with
  | zero => intro _; rfl
  | succ n ih => exact fun base => congrArg (s.readByte base :: ·) (ih (base + 1))

theorem State.loadRegisters_mapIdle (g : Idle → Idle) (s : State) (base n : Nat) :
    (s.mapIdle g).loadRegisters base n = s.loadRegisters base n := by
  induction n with
  | zero => rfl
  | succ n ih => exact congrArg (·.setIfInBounds n (s.readByte (base + n))) ih

theorem State.spriteDrawn_mapIdle (g : Idle → Idle) (s : State) (x y : RegIdx) (n : Nibble) :
    (s.mapIdle g).spriteDrawn x y n = s.spriteDrawn x y n :=
  congrArg (drawSprite (s.readV x) (s.readV y) · s.fb) (s.readBytes_mapIdle g n.toNat s.blockBase)

theorem execDrw_mapIdle (g : Idle → Idle) (s : State) (x y : RegIdx) (n : Nibble) :
    execDrw x y n (s.mapIdle g) = mapNext (State.mapIdle g) (execDrw x y n s) := by
  unfold execDrw
  rw [State.spriteDrawn_mapIdle, apply_ite (mapNext _), mapNext_checkRange]
  rfl

theorem execLdVxK_mapIdle (g : Idle → Idle) (s : State) (x : RegIdx) :
    execLdVxK x (s.mapIdle g) = mapNext (State.mapIdle g) (execLdVxK x s) := by
  have hk : (s.mapIdle g).pressedKeys = s.pressedKeys := rfl
  unfold execLdVxK
  rw [hk]
  cases s.pressedKeys <;> rfl

theorem execLoadRegs_mapIdle (g : Idle → Idle) (s : State) (x : RegIdx) :
    execLoadRegs x (s.mapIdle g) = mapNext (State.mapIdle g) (execLoadRegs x s) := by
  unfold execLoadRegs
  rw [State.loadRegisters_mapIdle, mapNext_checkRange]
  rfl

/-- Execute, but for the five instructions that use them, gives the same outcome whatever the idle pieces hold, and leaves them as they
are. -/
theorem exec_mapIdle {i : Instr} (hi : i.usesIdle = false) (s : State) (g : Idle → Idle) :
    exec i (s.mapIdle g) = mapNext (State.mapIdle g) (exec i s) := by
  cases i with
  | ret | call | ldVxDt | ldDtVx | ldStVx => cases hi
  | seByte | sneByte | seReg | sneReg => exact congrArg Host.Outcome.next (s.skipIf_mapIdle g _)
  | skp x => exact checkKey_skipIf_mapIdle g s (s.readV x) s.pressed
  | sknp x => exact checkKey_skipIf_mapIdle g s (s.readV x) (!s.pressed ·)
  | ldVxK x => exact execLdVxK_mapIdle g s x
  | drw x y n => exact execDrw_mapIdle g s x y n
  | ldB | storeRegs =>
    symm
    exact mapNext_checkRange _ _ _ _
  | loadRegs x => exact execLoadRegs_mapIdle g s x
  | _ => rfl

/-! ### The three idle bytes, one at a time -/

/-- DT commutes with every instruction but FX07, which reads it, and FX15, which writes it (R23). -/
theorem exec_setDt {i : Instr} (hread : ∀ x, i ≠ .ldVxDt x) (hwrite : ∀ x, i ≠ .ldDtVx x) (s : State) (b : Byte) :
    exec i (s.setDt b) = mapNext (·.setDt b) (exec i s) := by
  cases i with
  | ldVxDt x => exact absurd rfl (hread x)
  | ldDtVx x => exact absurd rfl (hwrite x)
  | ret | call | ldStVx => rfl
  | _ => exact exec_mapIdle rfl s fun d => { d with dt := b }

/-- ST commutes with every instruction but FX18, which writes it (R24). -/
theorem exec_setSt {i : Instr} (hwrite : ∀ x, i ≠ .ldStVx x) (s : State) (b : Byte) :
    exec i (s.setSt b) = mapNext (·.setSt b) (exec i s) := by
  cases i with
  | ldStVx x => exact absurd rfl (hwrite x)
  | ret | call | ldVxDt | ldDtVx => rfl
  | _ => exact exec_mapIdle rfl s fun d => { d with st := b }

/-- SP commutes with every instruction but CALL and RET (R21). -/
theorem exec_withSp {i : Instr} (hcall : ∀ nnn, i ≠ .call nnn) (hret : ∀ x, i ≠ .ret x) (s : State) (b : Byte) :
    exec i { s with sp := b } = mapNext (fun t => { t with sp := b }) (exec i s) := by
  cases i with
  | call nnn => exact absurd rfl (hcall nnn)
  | ret x => exact absurd rfl (hret x)
  | ldVxDt | ldDtVx | ldStVx => rfl
  | _ => exact exec_mapIdle rfl s fun d => { d with sp := b }

theorem unchanged_withSp (s : State) (b : Byte) : UnchangedExcept [.sp] s { s with sp := b } := by
  intro p hp
  refine Part.same_of_fields p ?_
  cases p with
  | sp => simp at hp
  | mem => exact ⟨rfl, rfl⟩
  | _ => rfl

/-! ### What commuting gives -/

/-- Not read: results that differ by `f` are of the same kind. -/
theorem sameOutcome_mapNext {R : State → State → Prop} {f : State → State} (hR : ∀ t, R t (f t)) (r : Result) :
    SameOutcome R r (mapNext f r) := by
  cases r with
  | next t => exact hR t
  | fault | refused => rfl

/-- Not written: an update that commutes with the instruction and changes nothing in the start state changes nothing in the next. -/
theorem fixed_of_exec_commutes {i : Instr} {s t : State} {f : State → State} (hf : f s = s)
    (hc : exec i (f s) = mapNext f (exec i s)) (h : exec i s = .next t) : f t = t := by
  rw [hf, h] at hc
  exact (Host.Outcome.next.inj hc).symm

theorem dt_of_exec {i : Instr} {s t : State} (h : exec i s = .next t) (hwrite : ∀ x, i ≠ .ldDtVx x) : t.dt = s.dt := by
  by_cases hread : ∀ x, i ≠ .ldVxDt x
  · have ht : t.setDt s.dt = t := fixed_of_exec_commutes (f := (·.setDt s.dt)) rfl (exec_setDt hread hwrite s s.dt) h
    exact (congrArg State.dt ht).symm
  · obtain ⟨x, rfl⟩ : ∃ x, i = .ldVxDt x := by simpa using hread
    cases h
    rfl

theorem st_of_exec {i : Instr} {s t : State} (h : exec i s = .next t) (hwrite : ∀ x, i ≠ .ldStVx x) : t.st = s.st := by
  have ht : t.setSt s.st = t := fixed_of_exec_commutes (f := (·.setSt s.st)) rfl (exec_setSt hwrite s s.st) h
  exact (congrArg State.st ht).symm

theorem sp_of_exec {i : Instr} {s t : State} (h : exec i s = .next t) (hcall : ∀ nnn, i ≠ .call nnn)
    (hret : ∀ x, i ≠ .ret x) : t.sp = s.sp := by
  have ht : { t with sp := s.sp } = t :=
    fixed_of_exec_commutes (f := fun u => { u with sp := s.sp }) rfl (exec_withSp hcall hret s s.sp) h
  exact (congrArg State.sp ht).symm

theorem exec_does_not_read_dt {i : Instr} (hread : ∀ x, i ≠ .ldVxDt x) (s : State) (b : Byte) :
    SameOutcome (UnchangedExcept [.dt]) (exec i s) (exec i (s.setDt b)) := by
  by_cases hwrite : ∀ x, i ≠ .ldDtVx x
  · rw [exec_setDt hread hwrite]
    exact sameOutcome_mapNext (fun t => unchanged_setDt t b) _
  · obtain ⟨x, rfl⟩ : ∃ x, i = .ldDtVx x := by simpa using hwrite
    exact UnchangedExcept.refl [.dt] (s.setDt (s.readV x))

theorem exec_does_not_read_st (i : Instr) (s : State) (b : Byte) :
    SameOutcome (UnchangedExcept [.st]) (exec i s) (exec i (s.setSt b)) := by
  by_cases hwrite : ∀ x, i ≠ .ldStVx x
  · rw [exec_setSt hwrite]
    exact sameOutcome_mapNext (fun t => unchanged_setSt t b) _
  · obtain ⟨x, rfl⟩ : ∃ x, i = .ldStVx x := by simpa using hwrite
    exact UnchangedExcept.refl [.st] (s.setSt (s.readV x))

theorem exec_does_not_read_sp {i : Instr} (hcall : ∀ nnn, i ≠ .call nnn) (hret : ∀ x, i ≠ .ret x) (s : State) (b : Byte) :
    SameOutcome (UnchangedExcept [.sp]) (exec i s) (exec i { s with sp := b }) := by
  rw [exec_withSp hcall hret s b]
  exact sameOutcome_mapNext (fun t => unchanged_withSp t b) _

/-! ### The cycle's tick -/

/-- A cycle that ends with no fault recorded has executed its word, and ends with the tick (R68, R69). -/
theorem step_executed {s t : State} (h : step s = .next t) (hf : t.fault = none) :
    ∃ u, execDecoded s.nextDecoded s.advancePc = .next u ∧ t = u.tick := by
  obtain ⟨-, -, ⟨f, -, rfl⟩ | ⟨u, -, hu, ht⟩⟩ := step_cases h
  · simp at hf
  · exact ⟨u, hu, ht⟩

/-! ### The obligations -/

/-- Settles O35: each timer commutes with every instruction that does not name it, so it is neither read nor written there. -/
theorem timersAreWrittenAndReadAsStated : Obligations.TimersAreWrittenAndReadAsStated := by
  refine ⟨fun x s => ?_, fun i s t h => ⟨dt_of_exec h, st_of_exec h⟩, fun s t h hf => ?_,
    fun i s b hread => exec_does_not_read_dt hread s b, exec_does_not_read_st, fun _ => rfl⟩
  · exact ⟨_, _, _, rfl, rfl, rfl, rfl, rfl, s.readV_writeV_same x s.dt⟩
  · obtain ⟨u, hu, rfl⟩ := step_executed h hf
    exact ⟨u, hu, toNat_countDown u.dt, toNat_countDown u.st⟩

/-- Settles O47: SP commutes with every instruction but CALL and RET, and these two are computed. -/
theorem stackPointerBelongsToCallAndReturn : Obligations.StackPointerBelongsToCallAndReturn := by
  refine ⟨fun nnn s => ⟨_, rfl, ?_, fun _ _ => rfl⟩, fun x s => ⟨_, rfl, ?_, fun _ _ => rfl⟩,
    fun i s b hcall hret => ⟨fun t h => sp_of_exec h hcall hret, exec_does_not_read_sp hcall hret s b⟩⟩
  · exact BitVec.toNat_add s.sp 1
  · rw [State.setPc_sp, State.pop_sp, BitVec.toNat_sub, Nat.add_comm]
    rfl

end Sys2Proof.Machine

/-! SUPPORT. The cycle of a running machine whose fetch is in range, and the cycle of an unrecognised word (R58, R63 to R70). -/

namespace Sys2Proof.Machine

/-- Where the machine runs and both bytes of the word are inside memory, the cycle executes that word with PC advanced, and ends as
execute did (R64 to R70). -/
theorem step_of_running {s : State} (hready : s.ready = true) (hfault : s.fault = none)
    (hrange : s.pc.toNat + 2 ≤ Config.memSize) :
    step s = endCycle s (execDecoded s.nextDecoded s.advancePc) := by
  have hstatus : s.status = .running := s.status_running.2 ⟨hready, hfault⟩
  have hfetch : fetchAndExecute s = execDecoded s.nextDecoded s.advancePc := checkRange_inside hrange _
  rw [step, cycle, hstatus, hfetch]

@[simp] theorem execDecoded_unrecognised (u : Unrecognised) (s : State) : execDecoded (.unrecognised u) s = .next s := rfl

/-- All that a cycle changes when its execute step changes nothing: PC and the timers (R65, R68). -/
theorem unchanged_tick_advancePc (s : State) : UnchangedExcept [.pc, .dt, .st] s s.advancePc.tick :=
  ((unchanged_advancePc s).mono (by simp)).trans ((unchanged_tick s.advancePc).mono (by simp))

/-- Settles O10: execute answers the state it is given, so the cycle is the advance of PC and then the tick. -/
theorem unrecognisedWordIsNoOp : Obligations.UnrecognisedWordIsNoOp := by
  intro s u hready hfault hrange hword
  have hstep : step s = .next s.advancePc.tick := by
    rw [step_of_running hready hfault hrange, hword, execDecoded_unrecognised, endCycle]
  exact ⟨s.advancePc.tick, hstep, rfl, toNat_countDown s.dt, toNat_countDown s.st, hfault, unchanged_tick_advancePc s⟩

end Sys2Proof.Machine

/-! SUPPORT. Where PC goes in a cycle: what each instruction leaves unchanged in its execute step, and the PC that a control transfer,
a skip, a key wait and every other word leave (R65, R68; 42_control_flow.md, 44_timers_input.md). -/

namespace Sys2Proof.Machine

/-! ### The frame of the execute step -/

/-- Two changes one after the other change no more than the two together. -/
theorem UnchangedExcept.comp {l l' m : List Part} {s t u : State} (h : UnchangedExcept l s t) (h' : UnchangedExcept l' t u)
    (hl : l ++ l' ⊆ m) : UnchangedExcept m s u :=
  (h.mono (List.Subset.trans (List.subset_append_left l l') hl)).trans
    (h'.mono (List.Subset.trans (List.subset_append_right l l') hl))

theorem unchanged_withFb (s : State) (fb : Framebuffer) : UnchangedExcept [.fb] s { s with fb := fb } := by
  intro p hp
  refine Part.same_of_fields p ?_
  cases p with
  | fb => simp at hp
  | mem => exact ⟨rfl, rfl⟩
  | _ => rfl

theorem unchanged_withV (s : State) (v : Vector Byte 16) : UnchangedExcept [.v] s { s with v := v } := by
  intro p hp
  refine Part.same_of_fields p ?_
  cases p with
  | v => simp at hp
  | mem => exact ⟨rfl, rfl⟩
  | _ => rfl

/-- A key check that has gone on to a skip changed at most PC (R108, R109). -/
theorem unchanged_keySkip {a : Byte} {c : KeyIdx → Bool} {s t : State}
    (h : checkKey a (fun k => .next (s.skipIf (c k))) = .next t) : UnchangedExcept [.pc] s t := by
  obtain ⟨_, e⟩ | ⟨-, e⟩ := checkKey_cases a fun k => .next (s.skipIf (c k))
  · cases e.symm.trans h
    exact unchanged_skipIf s _
  · cases e.symm.trans h

theorem execDrw_next {x y : RegIdx} {n : Nibble} {s t : State} (h : execDrw x y n s = .next t) :
    t = s.drawn (s.spriteDrawn x y n) := by
  unfold execDrw at h
  split at h
  · exact (Host.Outcome.next.inj h).symm
  · exact (Host.Outcome.next.inj (checkRange_next h).2).symm

/-- FX0A with no key pressed puts PC back on its own word (R110, R112). -/
theorem execLdVxK_of_no_key {s : State} (hk : ∀ k, s.pressed k = false) (x : RegIdx) :
    execLdVxK x s = .next (s.setPc (s.pc - 2)) := by
  rw [execLdVxK, s.pressedKeys_eq_nil.2 hk]

/-- FX0A with a key pressed makes one draw and writes one register (R110). -/
theorem execLdVxK_of_key {s : State} (hk : ∃ k, s.pressed k = true) (x : RegIdx) :
    ∃ b, execLdVxK x s = .next (s.countDraw.writeV x b) := by
  obtain ⟨k, hk⟩ := hk
  cases hp : s.pressedKeys with
  | nil => exact absurd ((s.mem_pressedKeys k).2 hk) (by simp [hp])
  | cons j js =>
    rw [execLdVxK, hp]
    exact ⟨_, rfl⟩

theorem unchanged_execLdVxK {x : RegIdx} {s t : State} (h : execLdVxK x s = .next t) :
    UnchangedExcept [.v, .pc, .draws] s t := by
  by_cases hk : ∃ k, s.pressed k = true
  · obtain ⟨b, hb⟩ := execLdVxK_of_key hk x
    cases hb.symm.trans h
    exact (unchanged_countDraw s).comp (unchanged_writeV s.countDraw x b) (by simp)
  · cases (execLdVxK_of_no_key (by simpa using hk) x).symm.trans h
    exact (unchanged_setPc s _).mono (by simp)

/-- The execute step changes no other piece than the instruction may change. -/
theorem unchanged_exec {i : Instr} {s t : State} (h : exec i s = .next t) : UnchangedExcept i.changes s t := by
  cases i with
  | sys =>
    cases h
    exact UnchangedExcept.refl _ s
  | cls =>
    cases h
    exact unchanged_withFb s blankFb
  | ret =>
    cases h
    exact (unchanged_pop s).comp (unchanged_setPc s.pop _) (by simp [Instr.changes])
  | call =>
    cases h
    exact (unchanged_push s s.pc).comp (unchanged_setPc (s.push s.pc) _) (by simp [Instr.changes])
  | jp | jpV0 =>
    cases h
    exact unchanged_setPc s _
  | seByte | sneByte | seReg | sneReg =>
    cases h
    exact unchanged_skipIf s _
  | skp x => exact unchanged_keySkip (a := s.readV x) (c := s.pressed) h
  | sknp x => exact unchanged_keySkip (a := s.readV x) (c := (!s.pressed ·)) h
  | ldByte | addByte | ldReg | orReg | andReg | xorReg | ldVxDt =>
    cases h
    exact unchanged_writeV s _ _
  | addReg | sub | shr | subn | shl =>
    cases h
    exact unchanged_writeFlagThenV s _ _ _
  | rnd =>
    cases h
    exact (unchanged_countDraw s).comp (unchanged_writeV s.countDraw _ _) (by simp [Instr.changes])
  | ldI | addI | ldF =>
    cases h
    exact unchanged_setI s _
  | drw =>
    cases execDrw_next h
    exact unchanged_drawn s _
  | ldVxK => exact unchanged_execLdVxK h
  | ldDtVx =>
    cases h
    exact unchanged_setDt s _
  | ldStVx =>
    cases h
    exact unchanged_setSt s _
  | ldB | storeRegs =>
    cases (checkRange_next h).2
    exact unchanged_storeBytes s _ _
  | loadRegs =>
    cases (checkRange_next h).2
    exact unchanged_withV s _

/-! ### The slot and the address that a transfer takes PC from -/

theorem toNat_addrOperand (nnn : Addr12) : (addrOperand nnn).toNat = nnn.toNat :=
  BitVec.toNat_setWidth_of_le (by decide)

/-- Where SP is from 1 to 16 a pop names the slot below SP (R22, R88). -/
theorem topOfStack_pop {s : State} {k : Fin 16} (h : s.sp.toNat = k.val + 1) : s.pop.topOfStack = s.stack.get k := by
  have hslot : stackSlot (s.sp - 1) = k := by
    have hsp : (s.sp - 1).toNat = k.val := by bv_omega
    rw [stackSlot, hsp]
    exact Fin.ofNat_val_eq_self k
  exact congrArg s.stack.get hslot

/-! ### The PC a cycle ends with -/

/-- A cycle that ends with no fault recorded leaves the PC of its execute step (R65, R68). -/
theorem step_pc_of_exec {s t u : State} {i : Instr} (h : step s = .next t) (hf : t.fault = none)
    (hword : s.nextDecoded = .instr i) (hu : exec i s.advancePc = .next u) : t.pc = u.pc := by
  obtain ⟨w, hw, rfl⟩ := step_executed h hf
  rw [hword] at hw
  cases hw.symm.trans hu
  rfl

/-- A skip adds 2 to the advanced PC when it is taken (R96). -/
theorem step_pc_of_skip {s t : State} {i : Instr} {c : Bool} (h : step s = .next t) (hf : t.fault = none)
    (hword : s.nextDecoded = .instr i) (hskip : exec i s.advancePc = .next (s.advancePc.skipIf c)) :
    t.pc = if c then s.pc + 4 else s.pc + 2 := by
  have htaken : s.pc + 2 + 2 = s.pc + 4 := BitVec.add_assoc s.pc 2 2
  rw [step_pc_of_exec h hf hword hskip, State.skipIf_pc, State.advancePc_pc, htaken]

theorem checkKey_of_toNat {a : Byte} {j : KeyIdx} (h : a.toNat = j.val) (k : KeyIdx → Result) : checkKey a k = k j :=
  (checkKey_inside (h ▸ j.isLt) k).trans (congrArg k (Fin.ext h))

/-- A skip on a key, where V[X] is a key number (R108, R109). -/
theorem step_pc_of_keySkip {s t : State} {i : Instr} {x : RegIdx} {k : KeyIdx} (c : KeyIdx → Bool) (h : step s = .next t)
    (hf : t.fault = none) (hword : s.nextDecoded = .instr i) (hk : (s.readV x).toNat = k.val)
    (hskip : exec i s.advancePc = checkKey (s.readV x) fun j => .next (s.advancePc.skipIf (c j))) :
    t.pc = if c k then s.pc + 4 else s.pc + 2 :=
  step_pc_of_skip h hf hword (hskip.trans (checkKey_of_toNat hk _))

theorem step_pc_of_ldVxK {s t : State} {x : RegIdx} (h : step s = .next t) (hf : t.fault = none)
    (hword : s.nextDecoded = .instr (.ldVxK x)) (hk : ∃ k, s.pressed k = true) : t.pc = s.pc + 2 := by
  obtain ⟨b, hb⟩ := execLdVxK_of_key (s := s.advancePc) hk x
  exact step_pc_of_exec h hf hword hb

theorem step_pc_of_ldVxK_waiting {s t : State} {x : RegIdx} (h : step s = .next t) (hf : t.fault = none)
    (hword : s.nextDecoded = .instr (.ldVxK x)) (hk : ∀ k, s.pressed k = false) : t.pc = s.pc :=
  (step_pc_of_exec h hf hword (execLdVxK_of_no_key (s := s.advancePc) hk x)).trans (BitVec.add_sub_cancel s.pc 2)

/-- A word that writes no PC leaves the advanced PC (R65). -/
theorem step_pc_of_sequential {s t : State} (h : step s = .next t) (hf : t.fault = none)
    (hword : ∀ i, s.nextDecoded = .instr i → Part.pc ∉ i.changes) : t.pc = s.pc + 2 := by
  obtain ⟨u, hu, rfl⟩ := step_executed h hf
  cases hd : s.nextDecoded with
  | instr i =>
    rw [hd] at hu
    exact unchanged_exec hu .pc (hword i hd)
  | unrecognised v =>
    rw [hd] at hu
    cases hu
    rfl

/-! ### The timers -/

theorem countDown_eq (b : Byte) : countDown b = if b ≠ 0 then b - 1 else b := by
  by_cases hb : b = 0
  · subst hb
    rfl
  · rw [countDown, if_neg hb, if_pos hb]

/-! ### The obligations -/

/-- Settles O8: the PC a cycle leaves is that of its execute step, and the execute step's PC is known for each kind of word. -/
theorem pcAdvancesBeforeDispatch : Obligations.PcAdvancesBeforeDispatch := by
  refine ⟨fun s hready hfault hrange => ?state, fun s t h hf => ?pc, fun i s a hi => ?overwrite,
    fun s t h hf => ⟨fun nnn hi => ?jump, fun x k hi hsp => ?ret, fun x hi => ?wait, fun x nn hi => ?seByte,
      fun x nn hi => ?sneByte, fun x y n hi => ?seReg, fun x y n hi => ?sneReg,
      fun x k hk => ⟨fun hi => ?skp, fun hi => ?sknp⟩, step_pc_of_sequential h hf⟩⟩
  case state => exact ⟨s.advancePc, rfl, unchanged_advancePc s, step_of_running hready hfault hrange⟩
  case pc =>
    obtain ⟨u, hu, rfl⟩ := step_executed h hf
    exact ⟨u, hu, rfl⟩
  case overwrite => obtain ⟨nnn, rfl | rfl | rfl⟩ | ⟨x, rfl⟩ := hi <;> exact ⟨_, _, rfl, rfl, rfl⟩
  case jump =>
    rw [← toNat_addrOperand nnn]
    obtain hi | hi := hi <;> exact congrArg BitVec.toNat (step_pc_of_exec h hf hi rfl)
  case ret => exact (step_pc_of_exec h hf hi rfl).trans (topOfStack_pop (s := s.advancePc) hsp)
  case wait =>
    split
    · next hk => exact step_pc_of_ldVxK h hf hi hk
    · next hk => exact step_pc_of_ldVxK_waiting h hf hi (by simpa using hk)
  case seByte => simpa using step_pc_of_skip (c := s.readV x == nn) h hf hi rfl
  case sneByte => simpa using step_pc_of_skip (c := s.readV x != nn) h hf hi rfl
  case seReg => simpa using step_pc_of_skip (c := s.readV x == s.readV y) h hf hi rfl
  case sneReg => simpa using step_pc_of_skip (c := s.readV x != s.readV y) h hf hi rfl
  case skp => exact step_pc_of_keySkip s.pressed h hf hi hk rfl
  case sknp =>
    have hpc := step_pc_of_keySkip (!s.pressed ·) h hf hi hk rfl
    cases hp : s.pressed k <;> simpa [hp] using hpc

/-- Settles O9: the cycle ends with the tick of the state that execute gives, and the tick changes the two timers alone. -/
theorem timersTickOncePerCycle : Obligations.TimersTickOncePerCycle := by
  intro s u hready hfault hrange hu
  have hexec : execDecoded s.nextDecoded s.advancePc = .next u := hu
  have hstep : step s = .next u.tick := by
    rw [step_of_running hready hfault hrange, hexec, endCycle]
  exact ⟨u.tick, hstep, countDown_eq u.dt, countDown_eq u.st, unchanged_tick u⟩

end Sys2Proof.Machine

/-! SUPPORT. The family of a word under the mask of its top nibble, and with it LD Vx, byte (R52, R53, R73). -/

namespace Sys2Proof

/-- The mask of the family's nibble keeps the family. -/
theorem family_mask (w : Word) : family (w &&& 0xF000) = family w := by
  have hmask : w &&& 0xF000#16 = ofAddr (family w) 0 := by
    simpa only [ofAddr_fields] using Laws.TableBits.mask_ofAddr (family w) (fieldNNN w)
  exact (congrArg family hmask).trans (family_ofAddr (family w) 0)

/-- The word of LD Vx, byte: its family alone names it (R53). -/
theorem decodeWord_of_family6 {w : Word} (h : family w = 6) : decodeWord w = .instr (.ldByte (fieldX w) (fieldNN w)) := by
  rw [decodeWord, h]
  rfl

end Sys2Proof

namespace Sys2Proof.Machine

/-- Settles O15: the mask fixes the family, which alone names the word, and the effect is one register write. -/
theorem loadByteResult : Obligations.LoadByteResult := by
  refine ⟨fun w hw => ?encoding, fun x nn s => ?effect⟩
  case encoding =>
    have hfam : family w = 6 := by rw [← family_mask w, hw]; rfl
    exact decodeWord_of_family6 hfam
  case effect =>
    exact ⟨s.writeV x nn, rfl, s.readV_writeV_same x nn, regsUnchanged_writeV s x nn, unchanged_writeV s x nn⟩

end Sys2Proof.Machine

/-! SUPPORT. The decoder, one equation per family (R52, R53), and the two directions between words and instructions (R54 to R60). -/

namespace Sys2Proof

section Families

variable {w : Word}

theorem decodeWord_of_family0 (h : family w = 0x0) : decodeWord w = decodeFamily0 w := by rw [decodeWord, h]; rfl
theorem decodeWord_of_family1 (h : family w = 0x1) : decodeWord w = .instr (.jp (fieldNNN w)) := by rw [decodeWord, h]; rfl
theorem decodeWord_of_family2 (h : family w = 0x2) : decodeWord w = .instr (.call (fieldNNN w)) := by rw [decodeWord, h]; rfl
theorem decodeWord_of_family3 (h : family w = 0x3) : decodeWord w = .instr (.seByte (fieldX w) (fieldNN w)) := by
  rw [decodeWord, h]; rfl
theorem decodeWord_of_family4 (h : family w = 0x4) : decodeWord w = .instr (.sneByte (fieldX w) (fieldNN w)) := by
  rw [decodeWord, h]; rfl
theorem decodeWord_of_family5 (h : family w = 0x5) :
    decodeWord w = .instr (.seReg (fieldX w) (fieldY w) (fieldN w)) := by rw [decodeWord, h]; rfl
theorem decodeWord_of_family7 (h : family w = 0x7) : decodeWord w = .instr (.addByte (fieldX w) (fieldNN w)) := by
  rw [decodeWord, h]; rfl
theorem decodeWord_of_family8 (h : family w = 0x8) : decodeWord w = decodeFamily8 w := by rw [decodeWord, h]; rfl
theorem decodeWord_of_family9 (h : family w = 0x9) :
    decodeWord w = .instr (.sneReg (fieldX w) (fieldY w) (fieldN w)) := by rw [decodeWord, h]; rfl
theorem decodeWord_of_familyA (h : family w = 0xA) : decodeWord w = .instr (.ldI (fieldNNN w)) := by rw [decodeWord, h]; rfl
theorem decodeWord_of_familyB (h : family w = 0xB) : decodeWord w = .instr (.jpV0 (fieldNNN w)) := by rw [decodeWord, h]; rfl
theorem decodeWord_of_familyC (h : family w = 0xC) : decodeWord w = .instr (.rnd (fieldX w) (fieldNN w)) := by
  rw [decodeWord, h]; rfl
theorem decodeWord_of_familyD (h : family w = 0xD) :
    decodeWord w = .instr (.drw (fieldX w) (fieldY w) (fieldN w)) := by rw [decodeWord, h]; rfl
theorem decodeWord_of_familyE (h : family w = 0xE) : decodeWord w = decodeFamilyE w := by rw [decodeWord, h]; rfl
theorem decodeWord_of_familyF (h : family w = 0xF) : decodeWord w = decodeFamilyF w := by rw [decodeWord, h]; rfl

end Families

/-! ### From the instruction to its word and back -/

theorem decodeWord_encode {i : Instr} (hwf : i.wf = true) : decodeWord (encode i) = .instr i := by
  cases i with
  | sys nnn =>
    obtain ⟨hcls, hret⟩ : nnn.setWidth 8 ≠ 0xE0#8 ∧ nnn.setWidth 8 ≠ 0xEE#8 := by simpa [Instr.wf, sysAddrOk] using hwf
    simp [encode, decodeWord_of_family0, decodeFamily0, hcls, hret]
  | cls | ret => simp [encode, decodeWord_of_family0, decodeFamily0]
  | jp => simp [encode, decodeWord_of_family1]
  | call => simp [encode, decodeWord_of_family2]
  | seByte => simp [encode, decodeWord_of_family3]
  | sneByte => simp [encode, decodeWord_of_family4]
  | seReg => simp [encode, decodeWord_of_family5]
  | ldByte => simp [encode, decodeWord_of_family6]
  | addByte => simp [encode, decodeWord_of_family7]
  | ldReg | orReg | andReg | xorReg | addReg | sub | shr | subn | shl =>
    simp [encode, decodeWord_of_family8, decodeFamily8]
  | sneReg => simp [encode, decodeWord_of_family9]
  | ldI => simp [encode, decodeWord_of_familyA]
  | jpV0 => simp [encode, decodeWord_of_familyB]
  | rnd => simp [encode, decodeWord_of_familyC]
  | drw => simp [encode, decodeWord_of_familyD]
  | skp | sknp => simp [encode, decodeWord_of_familyE, decodeFamilyE]
  | ldVxDt | ldVxK | ldDtVx | ldStVx | addI | ldF | ldB | storeRegs | loadRegs =>
    simp [encode, decodeWord_of_familyF, decodeFamilyF]


section Assembled

variable {w : Word} {f : Nibble}

theorem ofAddr_eq_word (hf : family w = f) : ofAddr f (fieldNNN w) = w := hf ▸ ofAddr_fields w

theorem ofRegByte_eq_word {nn : Byte} (hf : family w = f) (hnn : fieldNN w = nn) : ofRegByte f (fieldX w) nn = w :=
  hf ▸ hnn ▸ ofRegByte_fields w

theorem ofRegs_eq_word {n : Nibble} (hf : family w = f) (hn : fieldN w = n) : ofRegs f (fieldX w) (fieldY w) n = w :=
  hf ▸ hn ▸ ofNibbles_fields w

/-- The two low nibbles are the low byte. -/
theorem ofNibbles_fieldX (w : Word) (f y n : Nibble) : ofNibbles f (nibbleX w) y n = ofRegByte f (fieldX w) (y ++ n) :=
  BitVec.append_assoc

theorem ofNibbles_eq_word {y n : Nibble} (hf : family w = f) (hnn : fieldNN w = y ++ n) : ofNibbles f (nibbleX w) y n = w :=
  (ofNibbles_fieldX w f y n).trans (ofRegByte_eq_word hf hnn)

end Assembled

theorem nibble_cases (f : Nibble) :
    f = 0x0 ∨ f = 0x1 ∨ f = 0x2 ∨ f = 0x3 ∨ f = 0x4 ∨ f = 0x5 ∨ f = 0x6 ∨ f = 0x7 ∨
    f = 0x8 ∨ f = 0x9 ∨ f = 0xA ∨ f = 0xB ∨ f = 0xC ∨ f = 0xD ∨ f = 0xE ∨ f = 0xF := by
  revert f
  decide

section Inversion

variable {w : Word} {i : Instr}

theorem encode_of_decodeFamily0 (hf : family w = 0x0) (h : decodeFamily0 w = .instr i) : encode i = w ∧ i.wf = true := by
  unfold decodeFamily0 at h
  split at h
  · next hcls => cases h; exact ⟨ofNibbles_eq_word hf hcls, rfl⟩
  · next hcls =>
    split at h
    · next hret => cases h; exact ⟨ofNibbles_eq_word hf hret, rfl⟩
    · next hret =>
      cases h
      have hw := ofAddr_eq_word hf
      refine ⟨hw, ?_⟩
      rw [← hw, fieldNN_ofAddr] at hcls hret
      simp [Instr.wf, sysAddrOk, hcls, hret]

theorem encode_of_decodeFamily8 (hf : family w = 0x8) (h : decodeFamily8 w = .instr i) : encode i = w ∧ i.wf = true := by
  unfold decodeFamily8 at h
  split at h
  case h_10 => cases h
  all_goals
    next hn =>
      cases h
      exact ⟨ofRegs_eq_word hf (BitVec.eq_of_toNat_eq hn), rfl⟩

theorem encode_of_decodeFamilyE (hf : family w = 0xE) (h : decodeFamilyE w = .instr i) : encode i = w ∧ i.wf = true := by
  unfold decodeFamilyE at h
  split at h
  case h_3 => cases h
  all_goals
    next hnn =>
      cases h
      exact ⟨ofRegByte_eq_word hf (BitVec.eq_of_toNat_eq hnn), rfl⟩

theorem encode_of_decodeFamilyF (hf : family w = 0xF) (h : decodeFamilyF w = .instr i) : encode i = w ∧ i.wf = true := by
  unfold decodeFamilyF at h
  split at h
  case h_10 => cases h
  all_goals
    next hnn =>
      cases h
      exact ⟨ofRegByte_eq_word hf (BitVec.eq_of_toNat_eq hnn), rfl⟩

theorem encode_of_decodeWord (h : decodeWord w = .instr i) : encode i = w ∧ i.wf = true := by
  obtain hf | hf | hf | hf | hf | hf | hf | hf | hf | hf | hf | hf | hf | hf | hf | hf := nibble_cases (family w)
  · exact encode_of_decodeFamily0 hf (decodeWord_of_family0 hf ▸ h)
  · cases (decodeWord_of_family1 hf).symm.trans h; exact ⟨ofAddr_eq_word hf, rfl⟩
  · cases (decodeWord_of_family2 hf).symm.trans h; exact ⟨ofAddr_eq_word hf, rfl⟩
  · cases (decodeWord_of_family3 hf).symm.trans h; exact ⟨ofRegByte_eq_word hf rfl, rfl⟩
  · cases (decodeWord_of_family4 hf).symm.trans h; exact ⟨ofRegByte_eq_word hf rfl, rfl⟩
  · cases (decodeWord_of_family5 hf).symm.trans h; exact ⟨ofRegs_eq_word hf rfl, rfl⟩
  · cases (decodeWord_of_family6 hf).symm.trans h; exact ⟨ofRegByte_eq_word hf rfl, rfl⟩
  · cases (decodeWord_of_family7 hf).symm.trans h; exact ⟨ofRegByte_eq_word hf rfl, rfl⟩
  · exact encode_of_decodeFamily8 hf (decodeWord_of_family8 hf ▸ h)
  · cases (decodeWord_of_family9 hf).symm.trans h; exact ⟨ofRegs_eq_word hf rfl, rfl⟩
  · cases (decodeWord_of_familyA hf).symm.trans h; exact ⟨ofAddr_eq_word hf, rfl⟩
  · cases (decodeWord_of_familyB hf).symm.trans h; exact ⟨ofAddr_eq_word hf, rfl⟩
  · cases (decodeWord_of_familyC hf).symm.trans h; exact ⟨ofRegByte_eq_word hf rfl, rfl⟩
  · cases (decodeWord_of_familyD hf).symm.trans h; exact ⟨ofRegs_eq_word hf rfl, rfl⟩
  · exact encode_of_decodeFamilyE hf (decodeWord_of_familyE hf ▸ h)
  · exact encode_of_decodeFamilyF hf (decodeWord_of_familyF hf ▸ h)

end Inversion


/-! ### The unrecognised words -/

section Unrecognised

variable {w : Word}

theorem decodeFamily0_recognised (w : Word) (u : Unrecognised) : decodeFamily0 w ≠ .unrecognised u := by
  unfold decodeFamily0
  split
  · simp
  · split <;> simp

theorem decodeFamily8_unrecognised_iff :
    (∃ u, decodeFamily8 w = .unrecognised u) ↔ 8 ≤ (fieldN w).toNat ∧ fieldN w ≠ 0xE := by
  rw [BitVec.toNat_ne]
  unfold decodeFamily8
  split
  case h_10 h0 h1 h2 h3 h4 h5 h6 h7 hE =>
    simp only [imp_false] at h0 h1 h2 h3 h4 h5 h6 h7
    exact iff_of_true ⟨_, rfl⟩ ⟨by omega, hE⟩
  all_goals
    next hn => simp [hn]

theorem decodeFamilyE_unrecognised_iff :
    (∃ u, decodeFamilyE w = .unrecognised u) ↔ fieldNN w ≠ 0x9E ∧ fieldNN w ≠ 0xA1 := by
  simp only [BitVec.toNat_ne]
  unfold decodeFamilyE
  split
  case h_3 h9E hA1 => simpa using ⟨h9E, hA1⟩
  all_goals
    next hnn => simp [hnn]

theorem decodeFamilyF_unrecognised_iff :
    (∃ u, decodeFamilyF w = .unrecognised u) ↔
      fieldNN w ∉ ([0x07, 0x0A, 0x15, 0x18, 0x1E, 0x29, 0x33, 0x55, 0x65] : List Byte) := by
  simp only [List.mem_cons, List.not_mem_nil, or_false, not_or, ← ne_eq, BitVec.toNat_ne]
  unfold decodeFamilyF
  split
  case h_10 h07 h0A h15 h18 h1E h29 h33 h55 h65 => simpa using ⟨h07, h0A, h15, h18, h1E, h29, h33, h55, h65⟩
  all_goals
    next hnn => simp [hnn]

end Unrecognised

/-! ### The decoder against the table -/

section Table

variable {w u : Word}

theorem family_of_mask (h : w &&& 0xF000 = u) : family w = family u :=
  (family_mask w).symm.trans (congrArg family h)

theorem fields_of_mask_nibble (h : w &&& 0xF00F = u) : family w = family u ∧ fieldN w = fieldN u := by
  have hu : w &&& 0xF00F#16 = ofNibbles (family w) 0 0 (fieldN w) := by
    simpa only [ofNibbles_fields] using
      Laws.TableBits.mask_nibble_ofNibbles (family w) (nibbleX w) (nibbleY w) (fieldN w)
  simp [← h, hu]

theorem fields_of_mask_byte (h : w &&& 0xF0FF = u) : family w = family u ∧ fieldNN w = fieldNN u := by
  have hu : w &&& 0xF0FF#16 = ofRegByte (family w) 0 (fieldNN w) := by
    simpa only [ofRegByte_fields] using Laws.TableBits.mask_byte_ofRegByte (family w) (fieldX w) (fieldNN w)
  simp [← h, hu]

/-- What a row asks of a word. -/
theorem and_mask_of_rowMatches {n : Nat} {mask fixed : Word} (hn : tableRows[n - 1]? = some (mask, fixed))
    (h : rowMatches n w = true) : w &&& mask = fixed := by
  simpa [rowMatches, hn] using h

theorem rowMatches_encode (i : Instr) : rowMatches i.rowNumber (encode i) = true := by
  cases i with
  | sys x => exact Laws.TableBits.sys x
  | cls x => exact Laws.TableBits.cls x
  | ret x => exact Laws.TableBits.ret x
  | jp x => exact Laws.TableBits.jp x
  | call x => exact Laws.TableBits.call x
  | seByte x y => exact Laws.TableBits.seByte x y
  | sneByte x y => exact Laws.TableBits.sneByte x y
  | seReg x y n => exact Laws.TableBits.seReg x y n
  | ldByte x y => exact Laws.TableBits.ldByte x y
  | addByte x y => exact Laws.TableBits.addByte x y
  | ldReg x y => exact Laws.TableBits.ldReg x y
  | orReg x y => exact Laws.TableBits.orReg x y
  | andReg x y => exact Laws.TableBits.andReg x y
  | xorReg x y => exact Laws.TableBits.xorReg x y
  | addReg x y => exact Laws.TableBits.addReg x y
  | sub x y => exact Laws.TableBits.sub x y
  | shr x y => exact Laws.TableBits.shr x y
  | subn x y => exact Laws.TableBits.subn x y
  | shl x y => exact Laws.TableBits.shl x y
  | sneReg x y n => exact Laws.TableBits.sneReg x y n
  | ldI x => exact Laws.TableBits.ldI x
  | jpV0 x => exact Laws.TableBits.jpV0 x
  | rnd x y => exact Laws.TableBits.rnd x y
  | drw x y n => exact Laws.TableBits.drw x y n
  | skp x => exact Laws.TableBits.skp x
  | sknp x => exact Laws.TableBits.sknp x
  | ldVxDt x => exact Laws.TableBits.ldVxDt x
  | ldVxK x => exact Laws.TableBits.ldVxK x
  | ldDtVx x => exact Laws.TableBits.ldDtVx x
  | ldStVx x => exact Laws.TableBits.ldStVx x
  | addI x => exact Laws.TableBits.addI x
  | ldF x => exact Laws.TableBits.ldF x
  | ldB x => exact Laws.TableBits.ldB x
  | storeRegs x => exact Laws.TableBits.storeRegs x
  | loadRegs x => exact Laws.TableBits.loadRegs x

theorem exists_instr_of_rowNumber {d : Decoded} {n : Nat} (h : d.toInstr.map Instr.rowNumber = some n) :
    ∃ i, d = .instr i ∧ i.rowNumber = n := by
  cases d with
  | instr i => exact ⟨i, rfl, Option.some.inj h⟩
  | unrecognised => cases h

/-- From row 2 on, the fixed bits of a row are the family and the selector that the decoder asks for. -/
theorem decodes_of_rowMatches {n : Nat} (h2 : 2 ≤ n) (h35 : n ≤ 35) (h : rowMatches n w = true) :
    ∃ i, decodeWord w = .instr i ∧ i.rowNumber = n := by
  apply exists_instr_of_rowNumber
  obtain h3 | ⟨h4, h10⟩ | ⟨h11, h19⟩ | ⟨h20, h24⟩ | ⟨h25, h26⟩ | h27 :
      n ≤ 3 ∨ (4 ≤ n ∧ n ≤ 10) ∨ (11 ≤ n ∧ n ≤ 19) ∨ (20 ≤ n ∧ n ≤ 24) ∨ (25 ≤ n ∧ n ≤ 26) ∨ 27 ≤ n := by omega
  · interval_cases n
    all_goals
      obtain ⟨hf, hnn⟩ := fields_of_mask_byte (and_mask_of_rowMatches rfl h)
      rw [decodeWord_of_family0 hf, decodeFamily0, hnn]
      rfl
  · interval_cases n
    all_goals
      rw [decodeWord, family_of_mask (and_mask_of_rowMatches rfl h)]
      rfl
  · interval_cases n
    all_goals
      obtain ⟨hf, hn⟩ := fields_of_mask_nibble (and_mask_of_rowMatches rfl h)
      rw [decodeWord_of_family8 hf, decodeFamily8, hn]
      rfl
  · interval_cases n
    all_goals
      rw [decodeWord, family_of_mask (and_mask_of_rowMatches rfl h)]
      rfl
  · interval_cases n
    all_goals
      obtain ⟨hf, hnn⟩ := fields_of_mask_byte (and_mask_of_rowMatches rfl h)
      rw [decodeWord_of_familyE hf, decodeFamilyE, hnn]
      rfl
  · interval_cases n
    all_goals
      obtain ⟨hf, hnn⟩ := fields_of_mask_byte (and_mask_of_rowMatches rfl h)
      rw [decodeWord_of_familyF hf, decodeFamilyF, hnn]
      rfl

/-- SYS is what is left of family 0 when the words of CLS and RET are taken out. -/
theorem decodes_sys_of_rowMatches (h1 : rowMatches 1 w = true) (h2 : rowMatches 2 w = false) (h3 : rowMatches 3 w = false) :
    decodeWord w = .instr (.sys (fieldNNN w)) := by
  have hf : family w = 0x0 := (family_of_mask (and_mask_of_rowMatches rfl h1)).trans rfl
  have hcls : fieldNN w ≠ 0xE0#8 := fun hnn => by
    have hw : encode (.cls (nibbleX w)) = w := ofNibbles_eq_word hf hnn
    have hrow : rowMatches 2 w = true := hw ▸ rowMatches_encode (.cls (nibbleX w))
    exact Bool.false_ne_true (h2.symm.trans hrow)
  have hret : fieldNN w ≠ 0xEE#8 := fun hnn => by
    have hw : encode (.ret (nibbleX w)) = w := ofNibbles_eq_word hf hnn
    have hrow : rowMatches 3 w = true := hw ▸ rowMatches_encode (.ret (nibbleX w))
    exact Bool.false_ne_true (h3.symm.trans hrow)
  rw [decodeWord_of_family0 hf, decodeFamily0, if_neg hcls, if_neg hret]

end Table
end Sys2Proof

namespace Sys2Proof.Machine

/-- Settles O1: each instruction's word has its family and selector, and the fields the decoder reads are the operands. -/
theorem decodeOfEncode : Obligations.DecodeOfEncode := fun _ => decodeWord_encode

/-- Settles O2: the decoder's fields assemble to the word they were cut from. -/
theorem encodeOfDecode : Obligations.EncodeOfDecode := fun _ _ => encode_of_decodeWord

/-- Settles O3: the encoder gives one direction, the fields under each mask the other. -/
theorem decoderFollowsTheTable : Obligations.DecoderFollowsTheTable := by
  refine ⟨fun w i h => ?_, fun w n => decodes_of_rowMatches, fun w h1 h2 h3 => ⟨_, decodes_sys_of_rowMatches h1 h2 h3, rfl⟩⟩
  obtain ⟨rfl, -⟩ := encode_of_decodeWord h
  exact rowMatches_encode i

/-- Settles O4: only families 8, E and F have words without a meaning, and there the selector decides. -/
theorem unrecognisedWordsAreExactlyThese : Obligations.UnrecognisedWordsAreExactlyThese := by
  intro w
  obtain hf | hf | hf | hf | hf | hf | hf | hf | hf | hf | hf | hf | hf | hf | hf | hf := nibble_cases (family w)
  · simp [decodeWord_of_family0 hf, decodeFamily0_recognised, hf]
  · simp [decodeWord_of_family1 hf, hf]
  · simp [decodeWord_of_family2 hf, hf]
  · simp [decodeWord_of_family3 hf, hf]
  · simp [decodeWord_of_family4 hf, hf]
  · simp [decodeWord_of_family5 hf, hf]
  · simp [decodeWord_of_family6 hf, hf]
  · simp [decodeWord_of_family7 hf, hf]
  · simp [decodeWord_of_family8 hf, decodeFamily8_unrecognised_iff, hf]
  · simp [decodeWord_of_family9 hf, hf]
  · simp [decodeWord_of_familyA hf, hf]
  · simp [decodeWord_of_familyB hf, hf]
  · simp [decodeWord_of_familyC hf, hf]
  · simp [decodeWord_of_familyD hf, hf]
  · simp [decodeWord_of_familyE hf, decodeFamilyE_unrecognised_iff, hf]
  · simp [decodeWord_of_familyF hf, decodeFamilyF_unrecognised_iff, hf]

/-- Settles O5: the twenty-one words are decoded. -/
theorem sampleWordsDecode : Obligations.SampleWordsDecode := by
  unfold Obligations.SampleWordsDecode
  decide

end Sys2Proof.Machine

/-! SUPPORT. The faults of the execute step, said as equivalences (R104, R111, R123), and the cycle around them: when it has a step,
what it runs, and what a fault leaves (R63 to R70, R124). -/

namespace Sys2Proof.Machine

/-! ### When a check faults -/

theorem checkRange_eq_fault {base n : Nat} {t : State} {f : Fault} :
    checkRange base n (.next t) = .fault f ↔
      Config.memSize < base + n ∧ f = .memoryOutOfRange (max base Config.memSize) := by
  obtain ⟨hb, e⟩ | ⟨hb, e⟩ := checkRange_cases base n (.next t)
  · simp [e, hb]
  · simp [e, hb, eq_comm]

theorem checkKey_eq_fault {a : Byte} {k : KeyIdx → State} {f : Fault} :
    checkKey a (fun j => .next (k j)) = .fault f ↔ 15 < a.toNat ∧ f = .keyIndexOutOfRange a := by
  obtain ⟨ha, e⟩ | ⟨ha, e⟩ := checkKey_cases a fun j => .next (k j)
  · simp [e, Nat.le_of_lt_succ ha]
  · simp [e, ha, eq_comm]

theorem execDrw_eq_fault {x y : RegIdx} {n : Nibble} {s : State} {f : Fault} :
    execDrw x y n s = .fault f ↔
      n ≠ 0 ∧ Config.memSize < s.blockBase + n.toNat ∧ f = .memoryOutOfRange (max s.blockBase Config.memSize) := by
  unfold execDrw
  split
  · next hn => simp [hn]
  · next hn => exact checkRange_eq_fault.trans (and_iff_right hn).symm

theorem execLdVxK_ne_fault (x : RegIdx) (s : State) (f : Fault) : execLdVxK x s ≠ .fault f := by
  unfold execLdVxK
  split <;> simp

/-- Settles O14: six instructions check, and each check faults on one side of its bound only. -/
theorem faultsAreExactlyThese : Obligations.FaultsAreExactlyThese := by
  intro i s f
  cases i with
  | ldB x =>
    have hb : Config.memSize < s.blockBase + 3 ↔ 0xFFF < s.i.toNat + 2 := Nat.succ_lt_succ_iff
    refine checkRange_eq_fault.trans ?_
    rw [hb]
    simp [State.blockBase, Config.memSize]
  | storeRegs x | loadRegs x =>
    have hb : Config.memSize < s.blockBase + regCount x ↔ 0xFFF < s.i.toNat + x.val := Nat.succ_lt_succ_iff
    refine checkRange_eq_fault.trans ?_
    rw [hb]
    simp [State.blockBase, Config.memSize]
  | drw x y n =>
    have hb : Config.memSize < s.blockBase + n.toNat ↔ 0xFFF < s.i.toNat + n.toNat - 1 := by
      unfold Config.memSize State.blockBase
      omega
    refine execDrw_eq_fault.trans ?_
    rw [hb]
    simp [State.blockBase, Config.memSize]
  | skp x =>
    refine (checkKey_eq_fault (k := fun j => s.skipIf (s.pressed j))).trans ?_
    simp
  | sknp x =>
    refine (checkKey_eq_fault (k := fun j => s.skipIf (!s.pressed j))).trans ?_
    simp
  | ldVxK x => exact iff_of_false (execLdVxK_ne_fault x s f) (by simp)
  | _ => exact iff_of_false (fun h => by cases h) (by simp)

/-! ### The pieces that no execute step changes -/

/-- The keys, the status and the font table are written by the host and by the cycle alone (R25, R28, R29; log 2). -/
theorem not_mem_changes {p : Part} (hp : p ∈ [Part.keys, .ready, .fault, .font]) (i : Instr) : p ∉ i.changes := by
  simp only [List.mem_cons, List.not_mem_nil, or_false] at hp
  obtain rfl | rfl | rfl | rfl := hp <;> cases i <;> simp [Instr.changes]

theorem same_of_execDecoded {p : Part} (hp : p ∈ [Part.keys, .ready, .fault, .font]) {d : Decoded} {s t : State}
    (h : execDecoded d s = .next t) : p.same s t := by
  cases d with
  | instr i => exact unchanged_exec h p (not_mem_changes hp i)
  | unrecognised u =>
    cases h
    exact UnchangedExcept.refl [] s p (by simp)

/-! ### The cycle -/

theorem toNat_wordOfBytes (hi lo : Byte) : (wordOfBytes hi lo).toNat = 256 * hi.toNat + lo.toNat := by
  rw [wordOfBytes, BitVec.toNat_append, Nat.shiftLeft_eq, Nat.mul_comm, ← Nat.two_pow_add_eq_or_of_lt lo.isLt]

theorem step_of_faulted {s : State} (h : s.fault ≠ none) : step s = .refused .cycleWhileFaulted := by
  have hstatus : s.status = .faulted := if_pos (Option.isSome_iff_ne_none.2 h)
  rw [step, cycle, hstatus]

theorem step_of_unready {s : State} (hfault : s.fault = none) (hready : s.ready = false) :
    step s = .refused .cycleWhileUnready := by
  have hstatus : s.status = .unready := by simp [State.status, hfault, hready]
  rw [step, cycle, hstatus]

theorem step_of_fetch_fault {s : State} (hready : s.ready = true) (hfault : s.fault = none)
    (hrange : Config.memSize < s.pc.toNat + 2) :
    step s = .next (s.recordFault (.memoryOutOfRange (max s.pc.toNat Config.memSize))) := by
  have hstatus : s.status = .running := s.status_running.2 ⟨hready, hfault⟩
  rw [step, cycle, hstatus, fetchAndExecute, checkRange_outside hrange, endCycle]

theorem step_of_exec {s : State} {i : Instr} (hready : s.ready = true) (hfault : s.fault = none)
    (hrange : s.pc.toNat + 2 ≤ Config.memSize) (hword : s.nextDecoded = .instr i) :
    step s = endCycle s (exec i s.advancePc) := by
  rw [step_of_running hready hfault hrange, hword, execDecoded]

/-- A running engine answers a next state, whatever it fetches. -/
theorem step_next_of_running {s : State} (hready : s.ready = true) (hfault : s.fault = none) : ∃ t, step s = .next t := by
  obtain hrange | hrange := Nat.lt_or_ge Config.memSize (s.pc.toNat + 2)
  · exact ⟨_, step_of_fetch_fault hready hfault hrange⟩
  · rw [step_of_running hready hfault hrange]
    cases he : execDecoded s.nextDecoded s.advancePc with
    | next u => exact ⟨_, rfl⟩
    | fault f => exact ⟨_, rfl⟩
    | refused q => exact absurd he (execDecoded_not_refused _ _ q)

/-- Settles O6: the cycle of a running engine, with the decoded word put in. -/
theorem stepRunsTheDecodedInstruction : Obligations.StepRunsTheDecodedInstruction :=
  fun _ _ hready hfault hrange hword => step_of_exec hready hfault hrange hword

/-- Settles O7: the first byte is the high half of the word. -/
theorem fetchIsBigEndian : Obligations.FetchIsBigEndian := fun _ => ⟨toNat_wordOfBytes _ _, rfl⟩

/-- Settles O11: the lowest address outside memory is PC where PC is outside, and 0x1000 for PC = 0xFFF. -/
theorem fetchOutOfRangeFaults : Obligations.FetchOutOfRangeFaults := by
  intro s hready hfault hpc
  have hrange : Config.memSize < s.pc.toNat + 2 := by unfold Config.memSize; omega
  refine ⟨_, step_of_fetch_fault hready hfault hrange, ?_, unchanged_recordFault s _⟩
  have haddr : max s.pc.toNat Config.memSize = if 0xFFF < s.pc.toNat then s.pc.toNat else s.pc.toNat + 1 := by
    unfold Config.memSize
    split <;> omega
  rw [← haddr]
  rfl

/-- Settles O12: execute records no fault, so a recorded one is the cycle's, in the state it started with. -/
theorem faultingCycleHasNoOtherEffect : Obligations.FaultingCycleHasNoOtherEffect := by
  intro s t h hf
  refine ⟨?_, step_of_faulted hf⟩
  obtain ⟨-, hfault, ⟨f, -, rfl⟩ | ⟨u, -, hu, rfl⟩⟩ := step_cases h
  · exact unchanged_recordFault s f
  · have hkept : u.fault = s.fault := same_of_execDecoded (p := .fault) (s := s.advancePc) (by simp) hu
    exact absurd (hkept.trans hfault) hf

/-- Settles O13: the three conditions of the engine, and what a cycle does in each. -/
theorem cycleStepsExactlyWhenRunning : Obligations.CycleStepsExactlyWhenRunning := by
  refine fun s => ⟨⟨fun ⟨t, h⟩ => ?_, fun ⟨hready, hfault⟩ => step_next_of_running hready hfault⟩,
    step_of_faulted, step_of_unready⟩
  obtain ⟨hready, hfault, -⟩ := step_cases h
  exact ⟨hready, hfault⟩

end Sys2Proof.Machine

/-! SUPPORT. The invariant: each operation of the state keeps it, so every execute step, every cycle, every host call and every run of
moves does (R19, R21, R31, R123; log 1). -/

namespace Sys2Proof.Machine

/-! ### The operations -/

section Operations

variable {s : State}

theorem State.Inv.setPc (h : s.Inv) {a : Word} (ha : a.toNat ≤ 0x10FE) : (s.setPc a).Inv :=
  ⟨h.mem, ha, h.stack, h.sp, h.fault⟩

theorem State.Inv.tick (h : s.Inv) : s.tick.Inv := ⟨h.mem, h.pc, h.stack, h.sp, h.fault⟩

theorem State.Inv.storeBytes (h : s.Inv) {base : Nat} {bs : List Byte} (hb : base + bs.length ≤ Config.memSize) :
    (s.storeBytes base bs).Inv :=
  ⟨Memory.wf_writeBytes bs s.mem base h.mem hb, h.pc, h.stack, h.sp, h.fault⟩

theorem State.Inv.recordFault (h : s.Inv) {f : Fault} (hf : f.sound) : (s.recordFault f).Inv :=
  ⟨h.mem, h.pc, h.stack, h.sp, fun _ hg => Option.some.inj hg ▸ hf⟩

theorem State.Inv.skipIf (h : s.Inv) (hpc : s.pc.toNat ≤ 0x1000) (c : Bool) : (s.skipIf c).Inv := by
  cases c with
  | false => exact h
  | true => exact h.setPc (a := s.pc + 2) (by bv_omega)

/-- A push at SP = 16 sets the marker, below it leaves SP at most 16 (R90, R31). -/
theorem State.Inv.push (h : s.Inv) {a : Word} (ha : a.toNat ≤ 0x1000) : (s.push a).Inv where
  mem := h.mem
  pc := h.pc
  stack k := by
    rw [State.push_stack, Vector.get_eq_getElem, Vector.getElem_set]
    split
    · exact ha
    · exact h.stack k
  sp hm := by
    obtain ⟨hmarker, hlt⟩ : s.stackMarker = false ∧ s.sp.toNat < 16 := by simpa using hm
    rw [State.push_sp]
    bv_omega
  fault := h.fault

/-- A pop at SP = 0 sets the marker, above it lowers SP (R88, R31). -/
theorem State.Inv.pop (h : s.Inv) : s.pop.Inv where
  mem := h.mem
  pc := h.pc
  stack := h.stack
  sp hm := by
    obtain ⟨-, hpos, hle⟩ : s.stackMarker = false ∧ s.sp.toNat ≠ 0 ∧ s.sp.toNat ≤ 16 := by simpa using hm
    rw [State.pop_sp]
    bv_omega
  fault := h.fault

theorem State.Inv.resetWith (font : FontTable) (n : Nat) : State.Inv { State.resetWith font with draws := n } where
  mem := Memory.wf_nil
  pc := (by decide : (0x200 : Word).toNat ≤ 0x10FE)
  stack k := by
    have hk : (Vector.replicate 16 (0 : Word)).get k = 0 := by simp [Vector.get_eq_getElem]
    exact hk ▸ Nat.zero_le _
  sp _ := Nat.zero_le _
  fault _ hf := by cases hf

end Operations

/-! ### The execute step -/

theorem State.Inv.keySkip {s t : State} {a : Byte} {c : KeyIdx → Bool} (h : s.Inv) (hpc : s.pc.toNat ≤ 0x1000)
    (he : checkKey a (fun k => .next (s.skipIf (c k))) = .next t) : t.Inv := by
  obtain ⟨_, e⟩ | ⟨-, e⟩ := checkKey_cases a fun k => .next (s.skipIf (c k))
  · cases e.symm.trans he
    exact h.skipIf hpc _
  · cases e.symm.trans he

theorem State.Inv.execLdVxK {s t : State} {x : RegIdx} (h : s.Inv) (hlow : 2 ≤ s.pc.toNat) (he : execLdVxK x s = .next t) :
    t.Inv := by
  by_cases hk : ∃ k, s.pressed k = true
  · obtain ⟨b, hb⟩ := execLdVxK_of_key hk x
    cases hb.symm.trans he
    exact ⟨h.mem, h.pc, h.stack, h.sp, h.fault⟩
  · cases (execLdVxK_of_no_key (by simpa using hk) x).symm.trans he
    exact h.setPc (by have := h.pc; bv_omega)

/-- The execute step keeps the invariant where PC is one that a fetch has advanced (R65). -/
theorem State.Inv.exec {i : Instr} {s t : State} (h : s.Inv) (hlow : 2 ≤ s.pc.toNat) (hpc : s.pc.toNat ≤ 0x1000)
    (he : exec i s = .next t) : t.Inv := by
  have haddr (nnn : Addr12) : (addrOperand nnn).toNat ≤ 0xFFF := by
    rw [toNat_addrOperand]
    exact Nat.le_of_lt_succ nnn.isLt
  cases i with
  | ret =>
    cases he
    exact h.pop.setPc ((h.pop.stack _).trans (by decide))
  | call nnn =>
    cases he
    exact (h.push hpc).setPc ((haddr nnn).trans (by decide))
  | jp nnn =>
    cases he
    exact h.setPc ((haddr nnn).trans (by decide))
  | jpV0 nnn =>
    cases he
    refine h.setPc ?_
    have := haddr nnn
    have hv : (wideOperand (s.readV 0)).toNat ≤ 0xFF := by
      rw [wideOperand, BitVec.toNat_setWidth_of_le (by decide)]
      exact Nat.le_of_lt_succ (s.readV 0).isLt
    bv_omega
  | seByte | sneByte | seReg | sneReg =>
    cases he
    exact h.skipIf hpc _
  | skp x => exact h.keySkip (a := s.readV x) (c := s.pressed) hpc he
  | sknp x => exact h.keySkip (a := s.readV x) (c := (!s.pressed ·)) hpc he
  | ldVxK => exact h.execLdVxK hlow he
  | drw =>
    cases execDrw_next he
    exact ⟨h.mem, h.pc, h.stack, h.sp, h.fault⟩
  | ldB x =>
    obtain ⟨hb, hn⟩ := checkRange_next he
    cases hn
    exact h.storeBytes hb
  | storeRegs x =>
    obtain ⟨hb, hn⟩ := checkRange_next he
    cases hn
    exact h.storeBytes (by rwa [State.length_regsUpTo])
  | loadRegs =>
    cases (checkRange_next he).2
    exact ⟨h.mem, h.pc, h.stack, h.sp, h.fault⟩
  | _ =>
    cases he
    exact ⟨h.mem, h.pc, h.stack, h.sp, h.fault⟩

/-! ### The faults -/

theorem sound_memoryOutOfRange (a : Word) : (Fault.memoryOutOfRange (max a.toNat Config.memSize)).sound :=
  ⟨Nat.le_max_right _ _, Nat.max_le.2 ⟨Nat.le_of_lt_succ a.isLt, by decide⟩⟩

/-- What execute raises is what R123 says. -/
theorem sound_of_exec {i : Instr} {s : State} {f : Fault} (h : exec i s = .fault f) : f.sound := by
  obtain ⟨x, -, -, rfl⟩ | ⟨x, -, -, rfl⟩ | ⟨x, y, n, -, -, -, rfl⟩ | ⟨x, -, hv, rfl⟩ := (faultsAreExactlyThese i s f).1 h
  · exact sound_memoryOutOfRange s.i
  · exact sound_memoryOutOfRange s.i
  · exact sound_memoryOutOfRange s.i
  · exact hv

theorem sound_of_fetchAndExecute {s : State} {f : Fault} (h : fetchAndExecute s = .fault f) : f.sound := by
  obtain ⟨-, e⟩ | ⟨-, e⟩ := fetchAndExecute_cases s
  · cases e.symm.trans h
    exact sound_memoryOutOfRange s.pc
  · rw [e] at h
    cases hd : s.nextDecoded with
    | instr i => exact sound_of_exec (hd ▸ h)
    | unrecognised u => cases (hd ▸ h : execDecoded (.unrecognised u) s.advancePc = .fault f)

/-! ### Steps, calls and runs -/

theorem State.Inv.execDecoded {d : Decoded} {s t : State} (h : s.Inv) (hlow : 2 ≤ s.pc.toNat) (hpc : s.pc.toNat ≤ 0x1000)
    (he : execDecoded d s = .next t) : t.Inv := by
  cases d with
  | instr i => exact h.exec hlow hpc he
  | unrecognised u =>
    cases he
    exact h

theorem State.Inv.step {s t : State} (h : s.Inv) (hstep : step s = .next t) : t.Inv := by
  obtain ⟨-, -, ⟨f, hf, rfl⟩ | ⟨u, hrange, hu, rfl⟩⟩ := step_cases hstep
  · exact h.recordFault (sound_of_fetchAndExecute hf)
  · have hpc : s.advancePc.pc.toNat = s.pc.toNat + 2 := by
      unfold Config.memSize at hrange
      rw [State.advancePc_pc]
      bv_omega
    have hinv : s.advancePc.Inv := h.setPc (hpc ▸ hrange.trans (by decide))
    exact (hinv.execDecoded (by omega) (hpc ▸ hrange) hu).tick

theorem State.Inv.hostCall (c : HostCall) {s : State} (h : s.Inv) : (hostCall c s).2.Inv := by
  cases c with
  | init => exact State.Inv.resetWith s.font s.draws
  | loadProgram bytes =>
    obtain hlong | hfits := Nat.lt_or_ge 3584 bytes.length
    · rw [hostCall_loadProgram, loadProgram_tooLong hlong]
      exact ⟨h.mem, h.pc, h.stack, h.sp, h.fault⟩
    · have hstored : (s.storeBytes 0x200 bytes).Inv := h.storeBytes (by unfold Config.memSize; omega)
      rw [hostCall_loadProgram, loadProgram_fits hfits]
      exact ⟨hstored.mem, hstored.pc, hstored.stack, hstored.sp, hstored.fault⟩
  | setKey => exact ⟨h.mem, h.pc, h.stack, h.sp, h.fault⟩
  | isReady | readFramebuffer | readSoundTimer | faultStatus => exact h

/-- What each of some moves keeps, a sequence of them keeps. -/
theorem runMoves_keeps {P : State → Prop} {ms : List Move} {s t : State}
    (hmove : ∀ m ∈ ms, ∀ u v, P u → move m u = .next v → P v) (hs : P s) (h : runMoves ms s = .next t) : P t := by
  induction ms generalizing s with
  | nil =>
    cases h
    exact hs
  | cons m ms ih =>
    unfold runMoves at h
    split at h
    · next u hu =>
      exact ih (fun n hn => hmove n (List.mem_cons_of_mem m hn)) (hmove m List.mem_cons_self s u hs hu) h
    · cases h
    · cases h

theorem State.Inv.move {m : Move} {s t : State} (h : s.Inv) (hm : move m s = .next t) : t.Inv := by
  cases m with
  | cycle => exact h.step hm
  | call c =>
    cases hm
    exact h.hostCall c

/-! ### The obligations -/

/-- Settles O53: the reset state lists no cell, and its PC, stack, SP and fault are constants. -/
theorem invariantAtReset : Obligations.InvariantAtReset :=
  ⟨State.Inv.resetWith Config.defaultFontTable 0, fun font => State.Inv.resetWith font 0⟩

/-- Settles O54: the execute step sees a PC from 2 to 0x1000, and from there keeps the invariant; a fault is sound. -/
theorem invariantKeptByEveryStep : Obligations.InvariantKeptByEveryStep := fun _ _ => State.Inv.step

/-- Settles O55: a call resets, stores within memory, or touches no piece the invariant speaks of. -/
theorem invariantKeptByHostCalls : Obligations.InvariantKeptByHostCalls := fun c _ => State.Inv.hostCall c

/-- Settles O56: every move keeps the invariant, and the bound on SP is its part for a clear marker. -/
theorem runsStayWithinTheBounds : Obligations.RunsStayWithinTheBounds := by
  intro ms s t hs h
  have ht : t.Inv := runMoves_keeps (fun _ _ _ _ hu hm => hu.move hm) hs h
  exact ⟨ht, fun ⟨_, hmarker⟩ => ht.sp hmarker⟩

end Sys2Proof.Machine

/-! SUPPORT. The results of the register operations (41_arithmetic.md): the value, the flag and the frame. -/

namespace Sys2Proof.Machine

/-! ### A flag and a destination -/

theorem State.readV_writeFlagThenV_dest (s : State) (c : Bool) (x : RegIdx) (b : Byte) :
    (s.writeFlagThenV c x b).readV x = b := by
  rw [State.readV_writeFlagThenV, if_pos rfl]

theorem State.readV_writeFlagThenV_flag (s : State) (c : Bool) {x : RegIdx} (b : Byte) (hx : x ≠ 15) :
    (s.writeFlagThenV c x b).readV 15 = flagByte c := by
  rw [State.readV_writeFlagThenV, if_neg hx.symm]
  exact if_pos rfl

@[simp] theorem flagByte_decide (p : Prop) [Decidable p] : flagByte (decide p) = if p then 1 else 0 := by
  simp [flagByte]

theorem toNat_flagByte_shiftedOutRight (a : Byte) : (flagByte (shiftedOutRight a)).toNat = a.toNat % 2 := by
  revert a
  decide

theorem toNat_flagByte_shiftedOutLeft (a : Byte) : (flagByte (shiftedOutLeft a)).toNat = a.toNat / 128 := by
  revert a
  decide

theorem toNat_sub_byte (a b : Byte) : (a - b).toNat = (a.toNat + 256 - b.toNat) % 256 := by
  bv_omega

/-! ### The obligations -/

/-- Settles O16: one register is written, with the sum. -/
theorem addByteResult : Obligations.AddByteResult := fun x _ s =>
  ⟨_, rfl, by rw [State.readV_writeV_same, BitVec.toNat_add], regsUnchanged_writeV s x _, unchanged_writeV s x _⟩

/-- Settles O17: one register is written, with a value of the old ones. -/
theorem copyAndLogicResults : Obligations.CopyAndLogicResults := fun x _ s =>
  ⟨⟨_, rfl, s.readV_writeV_same x _, regsUnchanged_writeV s x _, unchanged_writeV s x _⟩,
   ⟨_, rfl, s.readV_writeV_same x _, regsUnchanged_writeV s x _, unchanged_writeV s x _⟩,
   ⟨_, rfl, s.readV_writeV_same x _, regsUnchanged_writeV s x _, unchanged_writeV s x _⟩,
   ⟨_, rfl, s.readV_writeV_same x _, regsUnchanged_writeV s x _, unchanged_writeV s x _⟩⟩

/-- Settles O18: the carry is written before the sum, and both are of the old values. -/
theorem addRegistersResult : Obligations.AddRegistersResult := by
  intro x y s
  refine ⟨_, rfl, ?_, fun hx => ?_, regsUnchanged_writeFlagThenV s _ x _, unchanged_writeFlagThenV s _ x _⟩
  · rw [State.readV_writeFlagThenV_dest, BitVec.toNat_add]
  · rw [State.readV_writeFlagThenV_flag s _ _ hx, carryOut, flagByte_decide]

/-- Settles O19: SUBN is SUB with the operands exchanged; the flag is written before the difference. -/
theorem subtractResults : Obligations.SubtractResults := by
  intro x y s
  refine ⟨⟨_, rfl, ?_, fun hx => ?_, regsUnchanged_writeFlagThenV s _ x _, unchanged_writeFlagThenV s _ x _⟩,
    ⟨_, rfl, ?_, fun hx => ?_, regsUnchanged_writeFlagThenV s _ x _, unchanged_writeFlagThenV s _ x _⟩⟩
  · rw [State.readV_writeFlagThenV_dest, toNat_sub_byte]
  · rw [State.readV_writeFlagThenV_flag s _ _ hx, noBorrow, flagByte_decide]
  · rw [State.readV_writeFlagThenV_dest, toNat_sub_byte]
  · rw [State.readV_writeFlagThenV_flag s _ _ hx, noBorrow, flagByte_decide]

/-- Settles O20: a shift by one halves or doubles the value, and the bit at the end it leaves by goes to VF. -/
theorem shiftResults : Obligations.ShiftResults := by
  intro x y s
  refine ⟨⟨_, rfl, ?_, fun hx => ?_, regsUnchanged_writeFlagThenV s _ x _, unchanged_writeFlagThenV s _ x _⟩,
    ⟨_, rfl, ?_, fun hx => ?_, regsUnchanged_writeFlagThenV s _ x _, unchanged_writeFlagThenV s _ x _⟩⟩
  · rw [State.readV_writeFlagThenV_dest, BitVec.toNat_ushiftRight]
    rfl
  · rw [State.readV_writeFlagThenV_flag s _ _ hx, toNat_flagByte_shiftedOutRight]
  · rw [State.readV_writeFlagThenV_dest, BitVec.toNat_shiftLeft, Nat.shiftLeft_eq]
  · rw [State.readV_writeFlagThenV_flag s _ _ hx, toNat_flagByte_shiftedOutLeft]

/-- Settles O21: the draw is counted, and its byte is masked. -/
theorem randomByteResult : Obligations.RandomByteResult := by
  intro x nn s
  have hv : (s.countDraw.writeV x (s.nextByte &&& nn)).readV x = s.nextByte &&& nn := State.readV_writeV_same _ x _
  refine ⟨_, rfl, hv, ?_, rfl, regsUnchanged_writeV s.countDraw x _,
    (unchanged_countDraw s).comp (unchanged_writeV s.countDraw x _) (by simp)⟩
  rw [hv, BitVec.and_assoc, BitVec.and_not_self]
  exact BitVec.and_zero

end Sys2Proof.Machine

/-! SUPPORT. The results of the control transfers and of the writers of I, the timers and the keys' readers (42_control_flow.md,
43_memory_access.md, 44_timers_input.md). -/

namespace Sys2Proof.Machine

theorem toNat_wideOperand (b : Byte) : (wideOperand b).toNat = b.toNat := BitVec.toNat_setWidth_of_le (by decide)

/-- Settles O22: the targets are zero-extended, and the sum of NNN and V0 does not reach 2^16. -/
theorem sysAndJumpResults : Obligations.SysAndJumpResults := by
  intro nnn s
  refine ⟨⟨s, rfl, UnchangedExcept.refl [] s⟩, ⟨_, rfl, toNat_addrOperand nnn, unchanged_setPc s _⟩,
    ⟨_, rfl, ?_, unchanged_setPc s _⟩⟩
  have hsum : nnn.toNat + (s.readV 0).toNat < 2 ^ 16 := by
    have := nnn.isLt
    have := (s.readV 0).isLt
    omega
  rw [State.setPc_pc, BitVec.toNat_add, toNat_addrOperand, toNat_wideOperand, Nat.mod_eq_of_lt hsum]

theorem stackSlot_val (sp : Byte) : (stackSlot sp).val = sp.toNat % 16 := rfl

theorem State.get_push_stack (s : State) (a : Word) (k : Fin 16) :
    (s.push a).stack.get k = if k = stackSlot s.sp then a else s.stack.get k := by
  rw [State.push_stack, Vector.get_eq_getElem, Vector.getElem_set, ← Vector.get_eq_getElem]
  simp only [Fin.ext_iff, eq_comm]

/-- Settles O23: the push, then the jump. -/
theorem callResult : Obligations.CallResult := by
  intro nnn s
  refine ⟨_, rfl, toNat_addrOperand nnn, BitVec.toNat_add s.sp 1, fun k => ?_, ?_,
    (unchanged_push s s.pc).comp (unchanged_setPc (s.push s.pc) _) (by simp)⟩
  · simp only [State.setPc_stack, State.get_push_stack, Fin.ext_iff, stackSlot_val]
  · simp

theorem toNat_sub_one (b : Byte) : (b - 1).toNat = (b.toNat + 255) % 256 := by
  bv_omega

/-- Settles O24: the pop, then the jump to the slot that SP then names. -/
theorem returnResult : Obligations.ReturnResult := by
  intro x s
  refine ⟨_, rfl, toNat_sub_one s.sp, fun k hk => ?_, ?_,
    (unchanged_pop s).comp (unchanged_setPc s.pop _) (by simp)⟩
  · have hslot : stackSlot (s.sp - 1) = k := by
      rw [Fin.ext_iff, stackSlot_val, toNat_sub_one, hk]
      omega
    exact congrArg s.stack.get hslot
  · simp

/-- Settles O25: the pop takes SP back to where the push wrote. -/
theorem callThenReturnComesBack : Obligations.CallThenReturnComesBack := by
  intro nnn x s t u hcall hu
  cases hcall
  have hsp : u.sp = s.sp + 1 := hu .sp (by simp)
  have hback : u.sp - 1 = s.sp := by rw [hsp, BitVec.add_sub_cancel]
  have hslot : u.stack.get (stackSlot s.sp) = s.pc := by
    have hkept : u.stack.get (stackSlot s.sp) = (s.push s.pc).stack.get (stackSlot s.sp) := hu .stack (by simp) _
    rw [hkept, State.get_push_stack, if_pos rfl]
  refine ⟨_, rfl, ?_, hback⟩
  rw [State.setPc_pc, State.topOfStack, State.pop_stack, State.pop_sp, hback, hslot]

/-- Settles O26: each of the four is one skip on its own condition. -/
theorem registerSkipResults : Obligations.RegisterSkipResults := fun x y nn n s =>
  ⟨⟨_, rfl, by simp, unchanged_skipIf s _⟩, ⟨_, rfl, by simp, unchanged_skipIf s _⟩,
   ⟨_, rfl, by simp, unchanged_skipIf s _⟩, ⟨_, rfl, by simp, unchanged_skipIf s _⟩⟩

/-- Settles O27: I is written with the immediate, the sum or the glyph's address, which does not reach 2^16. -/
theorem indexRegisterResults : Obligations.IndexRegisterResults := by
  intro nnn x s
  refine ⟨⟨_, rfl, toNat_addrOperand nnn, unchanged_setI s _⟩, ⟨_, rfl, ?_, unchanged_setI s _⟩,
    ⟨_, rfl, ?_, unchanged_setI s _⟩⟩
  · rw [State.setI_i, BitVec.toNat_add, toNat_wideOperand]
  · have hglyph : Config.fontBase + (s.readV x).toNat * 5 < 2 ^ 16 := by
      have := (s.readV x).isLt
      unfold Config.fontBase
      omega
    exact (BitVec.toNat_ofNat _ _).trans (Nat.mod_eq_of_lt hglyph)

/-- Settles O34: each of the three is one write. -/
theorem timerMoveResults : Obligations.TimerMoveResults := fun x s =>
  ⟨⟨_, rfl, s.readV_writeV_same x _, regsUnchanged_writeV s x _, unchanged_writeV s x _⟩,
   ⟨_, rfl, rfl, unchanged_setDt s _⟩, ⟨_, rfl, rfl, unchanged_setSt s _⟩⟩

/-- Settles O36: the tick acts on the timer just written. -/
theorem timerSetInACycleIsOneLower : Obligations.TimerSetInACycleIsOneLower := by
  intro x s hready hfault hrange
  exact ⟨fun hword => ⟨_, step_of_exec hready hfault hrange hword, toNat_countDown _, toNat_countDown _, rfl⟩,
    fun hword => ⟨_, step_of_exec hready hfault hrange hword, toNat_countDown _, toNat_countDown _, rfl⟩⟩

/-- Settles O37: the check goes on with that key, and the skip is on its state. -/
theorem keySkipResults : Obligations.KeySkipResults := by
  intro x k s hk
  have hskp : exec (.skp x) s = .next (s.skipIf (s.pressed k)) :=
    checkKey_of_toNat hk fun j => .next (s.skipIf (s.pressed j))
  have hsknp : exec (.sknp x) s = .next (s.skipIf (!s.pressed k)) :=
    checkKey_of_toNat hk fun j => .next (s.skipIf (!s.pressed j))
  refine ⟨⟨_, hskp, s.skipIf_pc _, unchanged_skipIf s _⟩, ⟨_, hsknp, ?_, unchanged_skipIf s _⟩⟩
  rw [State.skipIf_pc]
  cases s.pressed k <;> rfl

/-- The key that FX0A stores is a pressed one (R110). -/
theorem execLdVxK_stores_pressed {s : State} (hk : ∃ k, s.pressed k = true) (x : RegIdx) :
    ∃ k, s.pressed k = true ∧ execLdVxK x s = .next (s.countDraw.writeV x (BitVec.ofNat 8 k.val)) := by
  obtain ⟨k, hk⟩ := hk
  cases hp : s.pressedKeys with
  | nil => exact absurd ((s.mem_pressedKeys k).2 hk) (by simp [hp])
  | cons j js =>
    have hmem : s.nextChoice j js ∈ s.pressedKeys := hp ▸ s.nextChoice_mem j js
    refine ⟨s.nextChoice j js, (s.mem_pressedKeys _).1 hmem, ?_⟩
    rw [execLdVxK, hp]

/-- Settles O38: with no key pressed the word is put back, else a pressed key is stored. -/
theorem keyWaitResult : Obligations.KeyWaitResult := by
  refine fun x s => ⟨fun hk => ⟨_, execLdVxK_of_no_key hk x, rfl, unchanged_setPc s _⟩, fun hk => ?_⟩
  obtain ⟨k, hpressed, hexec⟩ := execLdVxK_stores_pressed hk x
  refine ⟨_, k, hexec, hpressed, ?_, regsUnchanged_writeV s.countDraw x _,
    (unchanged_countDraw s).comp (unchanged_writeV s.countDraw x _) (by simp)⟩
  have hsmall : k.val < 2 ^ 8 := k.isLt.trans (by decide)
  rw [State.readV_writeV_same, BitVec.toNat_ofNat, Nat.mod_eq_of_lt hsmall]

/-- Settles O39: going back by 2 undoes the fetch's advance, so that only the tick is left. -/
theorem keyWaitRepeats : Obligations.KeyWaitRepeats := by
  intro x s hready hfault hrange hword hk
  have hback : s.advancePc.setPc (s.advancePc.pc - 2) = s := by
    rw [State.advancePc_pc, BitVec.add_sub_cancel]
    rfl
  have hexec : exec (.ldVxK x) s.advancePc = .next s :=
    (execLdVxK_of_no_key (s := s.advancePc) hk x).trans (congrArg Host.Outcome.next hback)
  have hstep : step s = .next s.tick := by rw [step_of_exec hready hfault hrange hword, hexec, endCycle]
  exact ⟨s.tick, hstep, rfl, toNat_countDown s.dt, toNat_countDown s.st, unchanged_tick s, hword⟩

end Sys2Proof.Machine

/-! SUPPORT. The results of the memory operations (43_memory_access.md), the block a fetch reads back, and the one canonical form of a
memory (20_memory.md; log 1). -/

namespace Sys2Proof.Machine

/-! ### Blocks -/

theorem execLdB_inside {s : State} (h : s.i.toNat + 2 ≤ 0xFFF) (x : RegIdx) :
    exec (.ldB x) s = .next (s.storeBytes s.blockBase (decimalDigits (s.readV x))) :=
  checkRange_inside (Nat.succ_le_succ h) _

theorem execStoreRegs_inside {s : State} {x : RegIdx} (h : s.i.toNat + x.val ≤ 0xFFF) :
    exec (.storeRegs x) s = .next (s.storeBytes s.blockBase (s.regsUpTo x)) :=
  checkRange_inside (Nat.succ_le_succ h) _

theorem execLoadRegs_inside {s : State} {x : RegIdx} (h : s.i.toNat + x.val ≤ 0xFFF) :
    exec (.loadRegs x) s = .next { s with v := s.loadRegisters s.blockBase (regCount x) } :=
  checkRange_inside (Nat.succ_le_succ h) _

/-- FX55 that completes had its whole block inside memory (R102, R104). -/
theorem execStoreRegs_next {s t : State} {x : RegIdx} (h : exec (.storeRegs x) s = .next t) :
    s.i.toNat + x.val ≤ 0xFFF ∧ t = s.storeBytes s.blockBase (s.regsUpTo x) := by
  obtain ⟨hrange, hnext⟩ := checkRange_next h
  exact ⟨Nat.le_of_succ_le_succ hrange, (Host.Outcome.next.inj hnext).symm⟩

/-- Where FX55 has stored V[k] (R102). -/
theorem readByte_storeRegs (s : State) {x k : RegIdx} (hk : k ≤ x) :
    (s.storeBytes s.blockBase (s.regsUpTo x)).readByte (s.i.toNat + k.val) = s.readV k := by
  have hlen : k.val < (s.regsUpTo x).length := by
    rw [State.length_regsUpTo]
    exact Nat.lt_succ_of_le hk
  exact (s.readByte_storeBytes_inside s.blockBase _ k.val hlen).trans (s.getElem_regsUpTo x k hk)

theorem bytesUnchanged_storeRegs (s : State) (x : RegIdx) :
    BytesUnchangedOutside s.blockBase (regCount x) s (s.storeBytes s.blockBase (s.regsUpTo x)) := by
  have houtside := bytesUnchanged_storeBytes s s.blockBase (s.regsUpTo x)
  rwa [State.length_regsUpTo] at houtside

/-- Where FX33 has stored a digit (R101). -/
theorem toNat_readByte_digit (s : State) (a : Byte) {k n : Nat} (hk : k < 3) (hn : n < 256)
    (hdigit : (decimalDigits a)[k] = BitVec.ofNat 8 n) :
    ((s.storeBytes s.blockBase (decimalDigits a)).readByte (s.i.toNat + k)).toNat = n := by
  have hstored := s.readByte_storeBytes_inside s.blockBase (decimalDigits a) k hk
  exact (congrArg BitVec.toNat (hstored.trans hdigit)).trans ((BitVec.toNat_ofNat n 8).trans (Nat.mod_eq_of_lt hn))

theorem readV_loadRegs (s : State) (x k : RegIdx) :
    { s with v := s.loadRegisters s.blockBase (regCount x) : State }.readV k =
      if k ≤ x then s.readByte (s.i.toNat + k.val) else s.readV k := by
  have hcount : k.val < regCount x ↔ k ≤ x := Nat.lt_succ_iff
  simp only [← hcount]
  exact s.get_loadRegisters s.blockBase (regCount x) k

/-! ### The canonical form -/

/-- A listed cell is what its address reads as. -/
theorem Memory.read_of_mem {font : FontTable} {m : Memory} (h : m.Pairwise (fun c d => c.1 < d.1)) {c : Host.Cell}
    (hc : c ∈ m) : m.read font c.1 = c.2 := by
  induction m with
  | nil => simp at hc
  | cons d m ih =>
    obtain ⟨hd, hm⟩ := List.pairwise_cons.1 h
    obtain rfl | hc := List.mem_cons.1 hc
    · exact if_pos rfl
    · have hne : c.1 ≠ d.1 := (hd c hc).ne'
      exact (if_neg hne).trans (ih hm hc)

/-- The cells of a canonical memory are the addresses that read otherwise than unlisted. -/
theorem Memory.mem_iff_read {font : FontTable} {m : Memory} (h : m.wf font) (c : Host.Cell) :
    c ∈ m ↔ m.read font c.1 = c.2 ∧ c.2 ≠ unlistedByte font c.1 := by
  obtain ⟨hsorted, hcells⟩ := h
  refine ⟨fun hc => ⟨read_of_mem hsorted hc, (hcells c hc).2⟩, fun ⟨hread, hne⟩ => ?_⟩
  obtain ⟨d, hd, hda⟩ : ∃ d ∈ m, d.1 = c.1 := by
    by_contra hnone
    have hunlisted : m.read font c.1 = unlistedByte font c.1 := read_eq_unlisted fun d hd hda => hnone ⟨d, hd, hda⟩
    exact hne (hread.symm.trans hunlisted)
  have hdc : d = c := Prod.ext hda ((read_of_mem hsorted hd).symm.trans (hda ▸ hread))
  exact hdc ▸ hd

/-! ### The obligations -/

/-- Settles O28: three bytes are stored, the digits in turn. -/
theorem storeDecimalDigitsResult : Obligations.StoreDecimalDigitsResult := by
  intro x s h
  have hv := (s.readV x).isLt
  exact ⟨_, execLdB_inside h x, toNat_readByte_digit s _ (k := 0) (by decide) (by omega) rfl,
    toNat_readByte_digit s _ (k := 1) (by decide) (by omega) rfl,
    toNat_readByte_digit s _ (k := 2) (by decide) (by omega) rfl,
    bytesUnchanged_storeBytes s _ (decimalDigits (s.readV x)), unchanged_storeBytes s _ _⟩

/-- Settles O29: the registers are stored in turn. -/
theorem storeRegistersResult : Obligations.StoreRegistersResult := by
  intro x s h
  exact ⟨_, execStoreRegs_inside h, fun k hk => readByte_storeRegs s hk, bytesUnchanged_storeRegs s x,
    unchanged_storeBytes s _ _⟩

/-- Settles O30: the registers up to V[X] are loaded in turn. -/
theorem loadRegistersResult : Obligations.LoadRegistersResult :=
  fun x s h => ⟨_, execLoadRegs_inside h, readV_loadRegs s x, unchanged_withV s _⟩

/-- Settles O31: the load reads the block that the store wrote. -/
theorem storeThenLoadRestoresRegisters : Obligations.StoreThenLoadRestoresRegisters := by
  intro x s t u hstore hu
  obtain ⟨hrange, rfl⟩ := execStoreRegs_next hstore
  have hi : u.i = s.i := hu .i (by simp)
  refine ⟨_, execLoadRegs_inside (hi ▸ hrange), fun k => ?_⟩
  rw [readV_loadRegs]
  by_cases hk : k ≤ x
  · rw [if_pos hk, if_pos hk, hi, ← readByte_storeRegs s hk]
    exact hu .mem (by simp) _
  · rw [if_neg hk, if_neg hk]

/-- Settles O32: the fetch reads two neighbours of the stored block. -/
theorem storedCodeIsFetched : Obligations.StoredCodeIsFetched := by
  intro x k j s t a hstore hj hjk ha
  obtain ⟨-, rfl⟩ := execStoreRegs_next hstore
  have hk : k ≤ x := (Fin.le_def.2 (hjk ▸ Nat.le_succ k.val)).trans hj
  have hhi := readByte_storeRegs s hk
  have hlo := readByte_storeRegs s hj
  rw [← ha] at hhi
  rw [hjk, ← Nat.add_assoc, ← ha] at hlo
  rw [← hhi, ← hlo]
  exact toNat_wordOfBytes _ _

/-- Settles O33: sorted lists with the same members are equal, and the members are known from the reads. -/
theorem canonicalMemoryIsUnique : Obligations.CanonicalMemoryIsUnique := by
  intro font m n hm hn hread
  have hirrefl : Std.Irrefl fun c d : Host.Cell => c.1 < d.1 := ⟨fun c => Nat.lt_irrefl c.1⟩
  have hantisymm : Std.Antisymm fun c d : Host.Cell => c.1 < d.1 := ⟨fun _ _ h h' => absurd h' (Nat.lt_asymm h)⟩
  have hmem (c : Host.Cell) : c ∈ m ↔ c ∈ n := by rw [Memory.mem_iff_read hm, Memory.mem_iff_read hn, hread]
  obtain ⟨hsortedm, -⟩ := hm
  obtain ⟨hsortedn, -⟩ := hn
  exact hsortedm.eq_of_mem_iff hsortedn hmem

end Sys2Proof.Machine

/-! SUPPORT. The blitter (45_display.md, R114 to R121): a part of a sprite inverts the cells it covers and reports a collision with
them; parts that cover no cell in common make a larger part, from one cell to a row and from rows to the sprite. -/

namespace Sys2Proof.Machine

/-! ### Inverting a set of cells -/

/-- From `acc` to `acc'` exactly the cells of `hit` are inverted, and the collision flag is raised when one of them was lit. -/
structure Inverts (hit : Fin 32 → Fin 64 → Prop) (acc acc' : Framebuffer × Bool) : Prop where
  inside : ∀ y x, hit y x → acc'.1.lit y x = !acc.1.lit y x
  outside : ∀ y x, ¬hit y x → acc'.1.lit y x = acc.1.lit y x
  collision : acc'.2 = true ↔ acc.2 = true ∨ ∃ y x, hit y x ∧ acc.1.lit y x = true

theorem Inverts.congr {hit hit' : Fin 32 → Fin 64 → Prop} {acc acc' : Framebuffer × Bool} (h : Inverts hit acc acc')
    (hiff : ∀ y x, hit' y x ↔ hit y x) : Inverts hit' acc acc' := by
  have heq : hit' = hit := funext₂ fun y x => propext (hiff y x)
  exact heq ▸ h

theorem Inverts.none (acc : Framebuffer × Bool) : Inverts (fun _ _ => False) acc acc :=
  ⟨fun _ _ h => h.elim, fun _ _ _ => rfl, by simp⟩

/-- Two sets with no cell in common are inverted one after the other as their union is. -/
theorem Inverts.trans {hit hit' : Fin 32 → Fin 64 → Prop} {acc acc' acc'' : Framebuffer × Bool} (h : Inverts hit acc acc')
    (h' : Inverts hit' acc' acc'') (hdisjoint : ∀ y x, hit y x → ¬hit' y x) :
    Inverts (fun y x => hit y x ∨ hit' y x) acc acc'' where
  inside y x hor := by
    obtain hyx | hyx := hor
    · rw [h'.outside y x (hdisjoint y x hyx), h.inside y x hyx]
    · rw [h'.inside y x hyx, h.outside y x fun hyx' => hdisjoint y x hyx' hyx]
  outside y x hno := by
    rw [h'.outside y x fun hyx => hno (.inr hyx), h.outside y x fun hyx => hno (.inl hyx)]
  collision := by
    have hfresh : (∃ y x, hit' y x ∧ acc'.1.lit y x = true) ↔ ∃ y x, hit' y x ∧ acc.1.lit y x = true := by
      refine exists₂_congr fun y x => and_congr_right fun hyx => ?_
      rw [h.outside y x fun hyx' => hdisjoint y x hyx' hyx]
    rw [h'.collision, h.collision, hfresh, or_assoc]
    simp only [or_and_right, exists_or]

/-! ### From cells to rows to sprites -/

section Parts

variable (x0 y0 : Byte)

/-- The sprite bit of column `c` of row `row` is 1 and targets the cell (R116, R118). -/
def CellCovers (row : Nat) (b : Byte) (c : Nat) (y : Fin 32) (x : Fin 64) : Prop :=
  spriteBit b c = true ∧ y.val = (y0.toNat + row) % 32 ∧ x.val = (x0.toNat + c) % 64

/-- Some 1 bit of the listed columns targets the cell. -/
def ColumnsCover (row : Nat) (b : Byte) (cols : List Nat) (y : Fin 32) (x : Fin 64) : Prop :=
  ∃ c ∈ cols, CellCovers x0 y0 row b c y x

/-- Some 1 bit of the rows from `row` on targets the cell. -/
def RowsCover (row : Nat) (bytes : List Byte) (y : Fin 32) (x : Fin 64) : Prop :=
  ∃ r, r < bytes.length ∧ ColumnsCover x0 y0 (row + r) (bytes.getD r 0) [0, 1, 2, 3, 4, 5, 6, 7] y x

theorem inverts_drawCell (row : Nat) (b : Byte) (acc : Framebuffer × Bool) (c : Nat) :
    Inverts (CellCovers x0 y0 row b c) acc (drawCell x0 y0 row b acc c) where
  inside y x h := (lit_drawCell x0 y0 row b acc c y x).trans (if_pos h)
  outside y x h := (lit_drawCell x0 y0 row b acc c y x).trans (if_neg h)
  collision := by
    rw [collision_drawCell, Bool.or_eq_true, Bool.and_eq_true]
    refine or_congr_right ⟨fun ⟨hbit, hlit⟩ => ⟨_, _, ⟨hbit, rfl, rfl⟩, hlit⟩, ?_⟩
    rintro ⟨y, x, ⟨hbit, hy, hx⟩, hlit⟩
    have hy' : y = Fin.ofNat 32 (y0.toNat + row) := Fin.ext hy
    have hx' : x = Fin.ofNat 64 (x0.toNat + c) := Fin.ext hx
    exact ⟨hbit, hy' ▸ hx' ▸ hlit⟩

/-- Columns that differ, of the fewer than 64 there are, target cells that differ. -/
theorem inverts_foldl_drawCell (row : Nat) (b : Byte) {cols : List Nat} (hcols : cols.Nodup) (hlt : ∀ c ∈ cols, c < 64)
    (acc : Framebuffer × Bool) :
    Inverts (ColumnsCover x0 y0 row b cols) acc (cols.foldl (drawCell x0 y0 row b) acc) := by
  induction cols generalizing acc with
  | nil => exact (Inverts.none acc).congr fun y x => by simp [ColumnsCover]
  | cons c cols ih =>
    obtain ⟨hc, hcols⟩ := List.nodup_cons.1 hcols
    obtain ⟨hclt, hlt⟩ := List.forall_mem_cons.1 hlt
    have hboth := (inverts_drawCell x0 y0 row b acc c).trans (ih hcols hlt (drawCell x0 y0 row b acc c)) ?_
    · exact hboth.congr fun y x => by simp [ColumnsCover]
    · rintro y x ⟨-, -, hx⟩ ⟨d, hd, -, -, hx'⟩
      have hdc : d = c := by
        have := hlt d hd
        omega
      exact hc (hdc ▸ hd)

theorem inverts_drawRow (row : Nat) (b : Byte) (acc : Framebuffer × Bool) :
    Inverts (ColumnsCover x0 y0 row b [0, 1, 2, 3, 4, 5, 6, 7]) acc (drawRow x0 y0 row b acc) :=
  inverts_foldl_drawCell x0 y0 row b (by decide) (by decide) acc

theorem rowsCover_cons (row : Nat) (b : Byte) (bytes : List Byte) (y : Fin 32) (x : Fin 64) :
    RowsCover x0 y0 row (b :: bytes) y x ↔
      ColumnsCover x0 y0 row b [0, 1, 2, 3, 4, 5, 6, 7] y x ∨ RowsCover x0 y0 (row + 1) bytes y x := by
  constructor
  · rintro ⟨_ | r, hr, h⟩
    · exact .inl h
    · exact .inr ⟨r, Nat.lt_of_succ_lt_succ hr, by rwa [Nat.add_right_comm]⟩
  · rintro (h | ⟨r, hr, h⟩)
    · exact ⟨0, Nat.succ_pos _, h⟩
    · exact ⟨r + 1, Nat.succ_lt_succ hr, by rwa [Nat.add_right_comm] at h⟩

/-- Of at most 32 rows no two target the same row of cells. -/
theorem inverts_drawRows {bytes : List Byte} (hlen : bytes.length ≤ 32) (row : Nat) (acc : Framebuffer × Bool) :
    Inverts (RowsCover x0 y0 row bytes) acc (drawRows x0 y0 row bytes acc) := by
  induction bytes generalizing row acc with
  | nil => exact (Inverts.none acc).congr fun y x => by simp [RowsCover]
  | cons b bytes ih =>
    rw [List.length_cons] at hlen
    have hboth := (inverts_drawRow x0 y0 row b acc).trans (ih (by omega) (row + 1) (drawRow x0 y0 row b acc)) ?_
    · exact hboth.congr (rowsCover_cons x0 y0 row b bytes)
    · rintro y x ⟨-, -, -, hy, -⟩ ⟨r, hr, -, -, -, hy', -⟩
      omega

theorem spriteCovers_iff (bytes : List Byte) (y : Fin 32) (x : Fin 64) :
    SpriteCovers x0 y0 bytes y x ↔ RowsCover x0 y0 0 bytes y x := by
  have hcols (c : Nat) : c ∈ [0, 1, 2, 3, 4, 5, 6, 7] ↔ c < 8 := by
    simp only [List.mem_cons, List.not_mem_nil, or_false]
    omega
  simp only [SpriteCovers, RowsCover, ColumnsCover, CellCovers, spriteBit, hcols, Nat.zero_add, exists_and_left]

/-- The blitter inverts the cells a sprite covers (R115 to R118). -/
theorem inverts_drawSprite {bytes : List Byte} (hlen : bytes.length ≤ 15) (fb : Framebuffer) :
    Inverts (SpriteCovers x0 y0 bytes) (fb, false) (drawSprite x0 y0 bytes fb) :=
  (inverts_drawRows x0 y0 (hlen.trans (by decide)) 0 (fb, false)).congr (spriteCovers_iff x0 y0 bytes)

theorem collision_drawSprite {bytes : List Byte} (hlen : bytes.length ≤ 15) (fb : Framebuffer) :
    (drawSprite x0 y0 bytes fb).2 = true ↔ ∃ y x, SpriteCovers x0 y0 bytes y x ∧ fb.lit y x = true := by
  simpa using (inverts_drawSprite x0 y0 hlen fb).collision

end Parts

/-! ### The instruction -/

theorem execDrw_inside {x y : RegIdx} {n : Nibble} {s : State} (h : n = 0 ∨ s.i.toNat + n.toNat - 1 ≤ 0xFFF) :
    exec (.drw x y n) s = .next (s.drawn (s.spriteDrawn x y n)) := by
  show execDrw x y n s = _
  unfold execDrw
  split
  · rfl
  · next hn =>
    have hrange : s.blockBase + n.toNat ≤ Config.memSize := by
      have := h.resolve_left hn
      unfold State.blockBase Config.memSize
      omega
    exact checkRange_inside hrange _

/-- The sprite's bytes are those at I and above (R114). -/
theorem State.spriteBytes_eq {s : State} {n : Nibble} {bytes : List Byte} (hlen : bytes.length = n.toNat)
    (hbytes : ∀ k, k < n.toNat → bytes.getD k 0 = s.readByte (s.i.toNat + k)) : s.spriteBytes n = bytes := by
  refine List.ext_getElem ((s.length_readBytes n.toNat _).trans hlen.symm) fun k hk hk' => ?_
  rw [← List.getD_eq_getElem bytes 0 hk', hbytes k (hlen ▸ hk')]
  exact s.getElem_readBytes n.toNat s.blockBase k hk

/-! ### The obligations -/

/-- Settles O41: the framebuffer is replaced by the blank one. -/
theorem clearScreenResult : Obligations.ClearScreenResult := fun _ s =>
  ⟨_, rfl, lit_blankFb, unchanged_withFb s blankFb⟩

/-- Settles O43: the rows and columns of a sprite cover no cell twice. -/
theorem blitterInvertsTheWrappedCells : Obligations.BlitterInvertsTheWrappedCells := fun x0 y0 _ fb hlen =>
  have h := inverts_drawSprite x0 y0 hlen fb
  ⟨h.inside, h.outside, collision_drawSprite x0 y0 hlen fb⟩

/-- Settles O42: the bytes at I are the sprite, and VF is its collision flag. -/
theorem drawResult : Obligations.DrawResult := by
  intro x y n s bytes hrange hlen hbytes
  have hlen15 : bytes.length ≤ 15 := hlen ▸ Nat.le_of_lt_succ n.isLt
  have hdrawn : s.spriteDrawn x y n = drawSprite (s.readV x) (s.readV y) bytes s.fb := by
    rw [State.spriteDrawn, State.spriteBytes_eq hlen hbytes]
  have h := inverts_drawSprite (s.readV x) (s.readV y) hlen15 s.fb
  have hvf (p : Framebuffer × Bool) : (s.drawn p).readV 15 = flagByte p.2 := (s.readV_drawn p 15).trans (if_pos rfl)
  refine ⟨_, hdrawn ▸ execDrw_inside hrange, h.inside, h.outside, fun hlit => ?_, fun hunlit => ?_,
    regsUnchanged_drawn s _, unchanged_drawn s _⟩
  · rw [hvf, (collision_drawSprite _ _ hlen15 s.fb).2 hlit]
    rfl
  · have hno : (drawSprite (s.readV x) (s.readV y) bytes s.fb).2 = false := by
      rw [← Bool.not_eq_true, collision_drawSprite _ _ hlen15]
      rintro ⟨r, c, hcovers, hlit⟩
      exact Bool.false_ne_true ((hunlit r c hcovers).symm.trans hlit)
    rw [hvf, hno]
    rfl

/-- Settles O44: the second draw inverts the same cells, and finds lit those that the first has lit. -/
theorem drawingTwiceRestores : Obligations.DrawingTwiceRestores := by
  intro x0 y0 bytes fb hlen
  have hfirst := inverts_drawSprite x0 y0 hlen fb
  have hsecond := inverts_drawSprite x0 y0 hlen (drawSprite x0 y0 bytes fb).1
  refine ⟨Framebuffer.ext_lit fun r c => ?_, ?_, ?_⟩
  · by_cases hcovers : SpriteCovers x0 y0 bytes r c
    · rw [hsecond.inside r c hcovers, hfirst.inside r c hcovers, Bool.not_not]
    · rw [hsecond.outside r c hcovers, hfirst.outside r c hcovers]
  · rw [collision_drawSprite x0 y0 hlen]
    refine exists₂_congr fun r c => and_congr_left fun hlit => ?_
    by_cases hcovers : SpriteCovers x0 y0 bytes r c
    · rw [hfirst.inside r c hcovers] at hlit
      simpa [hcovers] using hlit
    · rw [hfirst.outside r c hcovers] at hlit
      simp [hcovers, hlit]
  · rw [← Bool.not_eq_true, collision_drawSprite x0 y0 hlen]
    simp

end Sys2Proof.Machine

/-! SUPPORT. The stack marker, the keys, and the host's calls of reset and load (10_state.md, 60_exceptions.md,
70_reset_and_hazards.md). -/

namespace Sys2Proof.Machine

/-! ### The stack marker -/

/-- The two states differ at most in the marker. -/
def SameButMarker (s t : State) : Prop := ∃ c, t = { s with stackMarker := c }

theorem SameButMarker.unchanged {s t : State} (h : SameButMarker s t) : UnchangedExcept [.stackMarker] s t := by
  obtain ⟨c, rfl⟩ := h
  intro p hp
  refine Part.same_of_fields p ?_
  cases p with
  | stackMarker => simp at hp
  | mem => exact ⟨rfl, rfl⟩
  | _ => rfl

theorem SameOutcome.mono {R R' : State → State → Prop} {a b : Result} (h : SameOutcome R a b) (hR : ∀ s t, R s t → R' s t) :
    SameOutcome R' a b := by
  cases a <;> cases b
  case next.next s t => exact hR s t h
  all_goals exact h

theorem exec_withMarker_of_idle {i : Instr} (hi : i.usesIdle = false) (s : State) (b : Bool) :
    SameOutcome SameButMarker (exec i s) (exec i { s with stackMarker := b }) := by
  have hcommutes : exec i { s with stackMarker := b } =
      mapNext (State.mapIdle fun d => { d with stackMarker := b }) (exec i s) :=
    exec_mapIdle hi s fun d => { d with stackMarker := b }
  rw [hcommutes]
  exact sameOutcome_mapNext (fun _ => ⟨b, rfl⟩) _

/-- No execute step reads the marker; CALL and RET only add to it (R31). -/
theorem exec_withMarker (i : Instr) (s : State) (b : Bool) :
    SameOutcome SameButMarker (exec i s) (exec i { s with stackMarker := b }) := by
  cases i with
  | ret | call | ldVxDt | ldDtVx | ldStVx => exact ⟨_, rfl⟩
  | _ => exact exec_withMarker_of_idle rfl s b

theorem execDecoded_withMarker (d : Decoded) (s : State) (b : Bool) :
    SameOutcome SameButMarker (execDecoded d s) (execDecoded d { s with stackMarker := b }) := by
  cases d with
  | instr i => exact exec_withMarker i s b
  | unrecognised => exact ⟨b, rfl⟩

theorem sameOutcome_checkRange {R : State → State → Prop} (base n : Nat) {k k' : Result} (h : SameOutcome R k k') :
    SameOutcome R (checkRange base n k) (checkRange base n k') := by
  unfold checkRange
  split
  · exact h
  · rfl

theorem endCycle_withMarker (s : State) (b : Bool) {r r' : Result} (h : SameOutcome SameButMarker r r') :
    SameOutcome SameButMarker (endCycle s r) (endCycle { s with stackMarker := b } r') := by
  cases r <;> cases r'
  case next.next t u =>
    obtain ⟨c, rfl⟩ := h
    exact ⟨c, rfl⟩
  case fault.fault f g =>
    obtain rfl : f = g := h
    exact ⟨b, rfl⟩
  case refused.refused => exact h
  all_goals exact False.elim h

theorem step_withMarker (s : State) (b : Bool) : SameOutcome SameButMarker (step s) (step { s with stackMarker := b }) := by
  have hstatus : ({ s with stackMarker := b } : State).status = s.status := rfl
  unfold step cycle
  rw [hstatus]
  cases s.status with
  | running =>
    exact endCycle_withMarker s b (sameOutcome_checkRange _ _ (execDecoded_withMarker s.nextDecoded s.advancePc b))
  | unready | faulted => rfl

theorem stackMarker_of_exec {i : Instr} {s t : State} (h : exec i s = .next t) (hm : s.stackMarker = true) :
    t.stackMarker = true := by
  cases i with
  | ret | call =>
    cases h
    simp [hm]
  | _ => exact (unchanged_exec h .stackMarker (by simp [Instr.changes])).trans hm

/-- Settles O48: the marker is read by no part of the cycle, and CALL and RET only set it. -/
theorem stackMarkerChangesNothing : Obligations.StackMarkerChangesNothing := by
  refine ⟨fun s b => (step_withMarker s b).mono fun _ _ => SameButMarker.unchanged, fun s t h hm => ?_⟩
  obtain ⟨-, -, ⟨f, -, rfl⟩ | ⟨u, -, hu, rfl⟩⟩ := step_cases h
  · exact hm
  · cases hd : s.nextDecoded with
    | instr i =>
      rw [hd] at hu
      exact stackMarker_of_exec (t := u) hu hm
    | unrecognised v =>
      rw [hd] at hu
      cases hu
      exact hm

/-! ### The keys -/

theorem pressed_of_step {s t : State} (h : step s = .next t) (k : KeyIdx) : t.pressed k = s.pressed k := by
  obtain ⟨-, -, ⟨f, -, rfl⟩ | ⟨u, -, hu, rfl⟩⟩ := step_cases h
  · rfl
  · exact same_of_execDecoded (p := .keys) (s := s.advancePc) (by simp) hu k

theorem unchanged_setKey (k : KeyIdx) (p : Bool) (s : State) : UnchangedExcept [.keys] s (setKey k p s) := by
  intro q hq
  refine Part.same_of_fields q ?_
  cases q with
  | keys => simp at hq
  | mem => exact ⟨rfl, rfl⟩
  | _ => rfl

theorem pressed_loadProgram (bytes : List Byte) (s : State) (k : KeyIdx) :
    (hostCall (.loadProgram bytes) s).2.pressed k = s.pressed k := by
  obtain hlong | hfits := Nat.lt_or_ge 3584 bytes.length
  · simp only [hostCall_loadProgram, loadProgram_tooLong hlong]
    rfl
  · simp only [hostCall_loadProgram, loadProgram_fits hfits]
    rfl

/-- A move that neither writes key `k` nor resets the machine leaves that key as it was. -/
theorem pressed_of_move {m : Move} {s t : State} {k : KeyIdx} (hinit : m ≠ .call .init) (hset : ∀ p, m ≠ .call (.setKey k p))
    (h : move m s = .next t) : t.pressed k = s.pressed k := by
  cases m with
  | cycle => exact pressed_of_step h k
  | call c =>
    cases h
    cases c with
    | init => exact absurd rfl hinit
    | loadProgram bytes => exact pressed_loadProgram bytes s k
    | setKey j p =>
      have hkj : k ≠ j := by
        rintro rfl
        exact hset p rfl
      exact (pressed_setKey j k p s).trans (if_neg hkj)
    | isReady | readFramebuffer | readSoundTimer | faultStatus => rfl

/-- Settles O40: the cycle writes no key, and of the calls only two do. -/
theorem keysBelongToTheHost : Obligations.KeysBelongToTheHost := by
  refine ⟨fun s t => pressed_of_step, fun k j p s => ⟨pressed_setKey k j p s, unchanged_setKey k p s⟩,
    fun ms k s t h hinit hset => ?_⟩
  refine runMoves_keeps (P := fun u => u.pressed k = s.pressed k) (fun m hm u v hu hmove => ?_) rfl h
  have hkept : v.pressed k = u.pressed k :=
    pressed_of_move (fun e => hinit (e ▸ hm)) (fun p e => hset p (e ▸ hm)) hmove
  exact hkept.trans hu

/-! ### Reset and loading -/

/-- Settles O49: each of the three is the reset state of its font, up to the count of draws. -/
theorem resetValues : Obligations.ResetValues := by
  intro font s t ht
  obtain ⟨n, rfl⟩ : ∃ n, t = { State.resetWith font with draws := n } := by
    obtain rfl | ⟨rfl, rfl⟩ | ⟨rfl, rfl⟩ := ht
    · exact ⟨0, rfl⟩
    · exact ⟨0, rfl⟩
    · exact ⟨s.draws, rfl⟩
  refine ⟨rfl, unlistedByte_font, fun a ha => unlistedByte_past ha, fun k => ?_, rfl, rfl, rfl, fun k => ?_, rfl, rfl,
    fun k => ?_, lit_blankFb, rfl, rfl, rfl⟩
  all_goals simp [State.resetWith, State.readV, State.pressed, Vector.get_eq_getElem]

theorem unchanged_withReady (s : State) (b : Bool) : UnchangedExcept [.ready] s { s with ready := b } := by
  intro p hp
  refine Part.same_of_fields p ?_
  cases p with
  | ready => simp at hp
  | mem => exact ⟨rfl, rfl⟩
  | _ => rfl

/-- Settles O50: an image that fits is one block write at 0x200, a longer one changes the flag alone. -/
theorem loadProgramResult : Obligations.LoadProgramResult := by
  refine fun bytes s => ⟨fun hfits => ?_, fun hlong => ?_⟩
  · refine ⟨{ s.storeBytes 0x200 bytes with ready := true }, ?_, rfl, fun k hk => ?_, bytesUnchanged_storeBytes s 0x200 bytes,
      (unchanged_storeBytes s 0x200 bytes).comp (unchanged_withReady _ true) (by simp)⟩
    · rw [hostCall_loadProgram, loadProgram_fits hfits]
    · rw [List.getD_eq_getElem bytes 0 hk]
      exact s.readByte_storeBytes_inside 0x200 bytes k hk
  · refine ⟨{ s with ready := false }, ?_, rfl, unchanged_withReady s false⟩
    rw [hostCall_loadProgram, loadProgram_tooLong hlong]

/-- Settles O51: the load makes the reset engine run, with the image's first two bytes where PC is. -/
theorem bootRunsTheFirstWord : Obligations.BootRunsTheFirstWord := by
  intro s t hi lo rest i hlen hword ht
  have hfits : (hi :: lo :: rest).length ≤ 3584 := Nat.add_le_add_right hlen 2
  have hload : t = { s.init.storeBytes 0x200 (hi :: lo :: rest) with ready := true } := by
    rw [ht, hostCall_loadProgram, hostCall_init, loadProgram_fits hfits]
  have hpc : t.pc = 0x200 := hload ▸ rfl
  have hhi : t.readByte 0x200 = hi := hload ▸ s.init.readByte_storeBytes_inside 0x200 (hi :: lo :: rest) 0 (by simp)
  have hlo : t.readByte (0x200 + 1) = lo := hload ▸ s.init.readByte_storeBytes_inside 0x200 (hi :: lo :: rest) 1 (by simp)
  have hpcNat : t.pc.toNat = 0x200 := by rw [hpc]; rfl
  have hnext : t.nextDecoded = .instr i := by
    rw [State.nextDecoded, State.codeBytes, decodeBytes, hpcNat, hhi, hlo, hword]
  have hadvance : t.advancePc = t.setPc 0x202 := by rw [State.advancePc, hpc]; rfl
  refine ⟨hpc, ?_⟩
  rw [step_of_exec (hload ▸ rfl) (hload ▸ rfl) (hpcNat ▸ by decide) hnext, hadvance]

/-- Settles O52: a read replies with the piece it names, and the state is returned as it is. -/
theorem hostReadsChangeNothing : Obligations.HostReadsChangeNothing := fun _ => ⟨rfl, rfl, rfl, rfl⟩

end Sys2Proof.Machine

/-! SUPPORT. The registers an execute step leaves unchanged, and those it does not read: a register that is no source is either
overwritten or commutes with the step (R15 to R17). -/

namespace Sys2Proof.Machine

/-! ### The registers that are kept -/

/-- The execute step changes no register but its destinations (R15, R16). -/
theorem readV_of_exec {i : Instr} {s t : State} {r : RegIdx} (h : exec i s = .next t) (hr : i.writesReg r = false) :
    t.readV r = s.readV r := by
  cases i with
  | ldByte | addByte | ldReg | orReg | andReg | xorReg | rnd | ldVxDt =>
    cases h
    exact State.readV_writeV_other _ _ (by simpa [Instr.writesReg] using hr)
  | addReg | sub | shr | subn | shl =>
    cases h
    exact regsUnchanged_writeFlagThenV s _ _ _ r (by simpa [Instr.writesReg] using hr)
  | drw =>
    cases execDrw_next h
    exact regsUnchanged_drawn s _ r (by simpa [Instr.writesReg] using hr)
  | loadRegs x =>
    cases (checkRange_next h).2
    exact (readV_loadRegs s x r).trans (if_neg (by simpa [Instr.writesReg] using hr))
  | ldVxK x =>
    by_cases hk : ∃ k, s.pressed k = true
    · obtain ⟨b, hb⟩ := execLdVxK_of_key hk x
      cases hb.symm.trans h
      exact State.readV_writeV_other _ _ (by simpa [Instr.writesReg] using hr)
    · cases (execLdVxK_of_no_key (by simpa using hk) x).symm.trans h
      rfl
  | _ => exact unchanged_exec h .v (by simp [Instr.changes]) r

/-- Settles O45: the frame by pieces, the frame by registers, and the block that a store writes. -/
theorem everyInstructionKeepsItsFrame : Obligations.EveryInstructionKeepsItsFrame := by
  refine fun i s t h => ⟨unchanged_exec h, fun r => readV_of_exec h, ?_, ?_⟩
  · rintro x rfl
    cases (checkRange_next h).2
    exact bytesUnchanged_storeBytes s _ (decimalDigits (s.readV x))
  · rintro x rfl
    obtain ⟨-, rfl⟩ := execStoreRegs_next h
    exact bytesUnchanged_storeRegs s x

/-! ### Two writes of registers -/

section Writes

variable (s : State) (r : RegIdx) (b : Byte)

theorem State.writeV_writeV_same (c : Byte) : (s.writeV r b).writeV r c = s.writeV r c := by
  simp [State.writeV]

theorem State.writeV_writeV_comm {x : RegIdx} (hx : r ≠ x) (c : Byte) :
    (s.writeV r b).writeV x c = (s.writeV x c).writeV r b := by
  have hval : r.val ≠ x.val := fun e => hx (Fin.ext e)
  simp [State.writeV, Vector.set_comm _ _ hval]

theorem State.writeFlagThenV_writeV_flag (c : Bool) (x : RegIdx) (d : Byte) :
    (s.writeV vf b).writeFlagThenV c x d = s.writeFlagThenV c x d := by
  rw [State.writeFlagThenV, State.setFlag, State.writeV_writeV_same]
  rfl

theorem State.writeFlagThenV_writeV_comm {x : RegIdx} (hvf : r ≠ vf) (hx : r ≠ x) (c : Bool) (d : Byte) :
    (s.writeV r b).writeFlagThenV c x d = (s.writeFlagThenV c x d).writeV r b := by
  rw [State.writeFlagThenV, State.setFlag, State.writeV_writeV_comm s r b hvf, State.writeV_writeV_comm _ r b hx]
  rfl

theorem State.skipIf_writeV (c : Bool) : (s.writeV r b).skipIf c = (s.skipIf c).writeV r b := by
  cases c <;> rfl

theorem checkKey_skipIf_writeV (a : Byte) (c : KeyIdx → Bool) :
    checkKey a (fun k => .next ((s.writeV r b).skipIf (c k))) =
      mapNext (·.writeV r b) (checkKey a fun k => .next (s.skipIf (c k))) := by
  rw [mapNext_checkKey]
  simp only [State.skipIf_writeV]
  rfl

theorem State.readBytes_writeV (n : Nat) : ∀ base, (s.writeV r b).readBytes base n = s.readBytes base n := by
  induction n with
  | zero => intro _; rfl
  | succ n ih => exact fun base => congrArg (s.readByte base :: ·) (ih (base + 1))

theorem State.spriteDrawn_writeV {x y : RegIdx} (hx : r ≠ x) (hy : r ≠ y) (n : Nibble) :
    (s.writeV r b).spriteDrawn x y n = s.spriteDrawn x y n := by
  unfold State.spriteDrawn
  rw [State.readV_writeV_other s b hx.symm, State.readV_writeV_other s b hy.symm]
  exact congrArg (drawSprite (s.readV x) (s.readV y) · s.fb) (s.readBytes_writeV r b n.toNat s.blockBase)

theorem State.regsUpTo_writeV {x : RegIdx} (hx : x < r) : (s.writeV r b).regsUpTo x = s.regsUpTo x := by
  have hcount : regCount x ≤ r.val := hx
  rw [State.regsUpTo, State.writeV_v, Vector.toList_set, List.take_set_of_le hcount]
  rfl

/-- Loading up to a register that has been written overwrites it. -/
theorem State.loadRegisters_writeV_inside {n : Nat} (hr : r.val < n) (base : Nat) :
    (s.writeV r b).loadRegisters base n = s.loadRegisters base n := by
  refine Vector.ext fun k hk => ?_
  rw [State.getElem_loadRegisters, State.getElem_loadRegisters]
  split
  · rfl
  · have hkr : r.val ≠ k := by omega
    simp [hkr]

theorem State.loadRegisters_writeV_outside {n : Nat} (hr : n ≤ r.val) (base : Nat) :
    (s.writeV r b).loadRegisters base n = (s.loadRegisters base n).set r b := by
  refine Vector.ext fun k hk => ?_
  rw [State.getElem_loadRegisters, Vector.getElem_set, State.getElem_loadRegisters, State.writeV_v, Vector.getElem_set]
  by_cases hkn : k < n
  · have hkr : r.val ≠ k := by omega
    rw [if_pos hkn, if_neg hkr, if_pos hkn]
    rfl
  · simp [hkn]

end Writes

/-! ### A register that is no source -/

section NoSource

variable {r : RegIdx} {s : State} {b : Byte}

theorem drawn_writeV_comm (h : r ≠ vf) (p : Framebuffer × Bool) : (s.writeV r b).drawn p = (s.drawn p).writeV r b :=
  State.writeV_writeV_comm { s with fb := p.1 } r b h _

theorem drawn_writeV_flag (p : Framebuffer × Bool) : (s.writeV vf b).drawn p = s.drawn p :=
  State.writeV_writeV_same { s with fb := p.1 } vf b _

theorem execLdVxK_writeV_comm {x : RegIdx} (h : r ≠ x) :
    execLdVxK x (s.writeV r b) = mapNext (·.writeV r b) (execLdVxK x s) := by
  have hk : (s.writeV r b).pressedKeys = s.pressedKeys := rfl
  unfold execLdVxK
  rw [hk]
  cases s.pressedKeys with
  | nil => rfl
  | cons k ks => exact congrArg Host.Outcome.next (s.countDraw.writeV_writeV_comm r b h _)

/-- A register that an instruction neither reads nor writes commutes with it. -/
theorem exec_writeV_of_unnamed {i : Instr} (hread : i.readsReg r = false) (hwrite : i.writesReg r = false) (s : State)
    (b : Byte) : exec i (s.writeV r b) = mapNext (·.writeV r b) (exec i s) := by
  have hother {k : RegIdx} (hk : r ≠ k) : (s.writeV r b).readV k = s.readV k := State.readV_writeV_other s b hk.symm
  cases i with
  | sys | cls | ret | jp | call | ldI => rfl
  | jpV0 =>
    have h0 : r ≠ 0 := by simpa [Instr.readsReg] using hread
    refine congrArg Host.Outcome.next ?_
    rw [hother h0]
    rfl
  | seByte x | sneByte x =>
    have hx : r ≠ x := by simpa [Instr.readsReg] using hread
    refine congrArg Host.Outcome.next ?_
    rw [hother hx]
    exact s.skipIf_writeV r b _
  | seReg x y | sneReg x y =>
    obtain ⟨hx, hy⟩ : r ≠ x ∧ r ≠ y := by simpa [Instr.readsReg] using hread
    refine congrArg Host.Outcome.next ?_
    rw [hother hx, hother hy]
    exact s.skipIf_writeV r b _
  | ldByte x | ldVxDt x =>
    have hx : r ≠ x := by simpa [Instr.writesReg] using hwrite
    exact congrArg Host.Outcome.next (s.writeV_writeV_comm r b hx _)
  | rnd x =>
    have hx : r ≠ x := by simpa [Instr.writesReg] using hwrite
    exact congrArg Host.Outcome.next (s.countDraw.writeV_writeV_comm r b hx _)
  | addByte x =>
    have hx : r ≠ x := by simpa [Instr.readsReg] using hread
    refine congrArg Host.Outcome.next ?_
    rw [hother hx]
    exact s.writeV_writeV_comm r b hx _
  | ldReg x y =>
    have hx : r ≠ x := by simpa [Instr.writesReg] using hwrite
    have hy : r ≠ y := by simpa [Instr.readsReg] using hread
    refine congrArg Host.Outcome.next ?_
    rw [hother hy]
    exact s.writeV_writeV_comm r b hx _
  | orReg x y | andReg x y | xorReg x y =>
    obtain ⟨hx, hy⟩ : r ≠ x ∧ r ≠ y := by simpa [Instr.readsReg] using hread
    refine congrArg Host.Outcome.next ?_
    rw [hother hx, hother hy]
    exact s.writeV_writeV_comm r b hx _
  | addReg x y | sub x y | subn x y =>
    obtain ⟨hx, hy⟩ : r ≠ x ∧ r ≠ y := by simpa [Instr.readsReg] using hread
    obtain ⟨-, hvf⟩ : r ≠ x ∧ r ≠ vf := by simpa [Instr.writesReg] using hwrite
    refine congrArg Host.Outcome.next ?_
    rw [hother hx, hother hy]
    exact s.writeFlagThenV_writeV_comm r b hvf hx _ _
  | shr x | shl x =>
    obtain ⟨hx, hvf⟩ : r ≠ x ∧ r ≠ vf := by simpa [Instr.writesReg] using hwrite
    refine congrArg Host.Outcome.next ?_
    rw [hother hx]
    exact s.writeFlagThenV_writeV_comm r b hvf hx _ _
  | ldDtVx x | ldStVx x | addI x | ldF x =>
    have hx : r ≠ x := by simpa [Instr.readsReg] using hread
    refine congrArg Host.Outcome.next ?_
    rw [hother hx]
    rfl
  | skp x =>
    have hx : r ≠ x := by simpa [Instr.readsReg] using hread
    show execSkp x (s.writeV r b) = _
    rw [execSkp, hother hx]
    exact checkKey_skipIf_writeV s r b (s.readV x) s.pressed
  | sknp x =>
    have hx : r ≠ x := by simpa [Instr.readsReg] using hread
    show execSknp x (s.writeV r b) = _
    rw [execSknp, hother hx]
    exact checkKey_skipIf_writeV s r b (s.readV x) (!s.pressed ·)
  | ldVxK x => exact execLdVxK_writeV_comm (by simpa [Instr.writesReg] using hwrite)
  | drw x y n =>
    obtain ⟨hx, hy⟩ : r ≠ x ∧ r ≠ y := by simpa [Instr.readsReg] using hread
    have hvf : r ≠ vf := by simpa [Instr.writesReg] using hwrite
    show execDrw x y n (s.writeV r b) = mapNext _ (execDrw x y n s)
    unfold execDrw
    rw [s.spriteDrawn_writeV r b hx hy, drawn_writeV_comm hvf, apply_ite (mapNext _), mapNext_checkRange]
    rfl
  | ldB x =>
    have hx : r ≠ x := by simpa [Instr.readsReg] using hread
    show execLdB x (s.writeV r b) = mapNext _ (execLdB x s)
    rw [execLdB, execLdB, hother hx, mapNext_checkRange]
    rfl
  | storeRegs x =>
    have hx : x < r := by simpa [Instr.readsReg] using hread
    show execStoreRegs x (s.writeV r b) = mapNext _ (execStoreRegs x s)
    rw [execStoreRegs, execStoreRegs, s.regsUpTo_writeV r b hx, mapNext_checkRange]
    rfl
  | loadRegs x =>
    have hx : x < r := by simpa [Instr.writesReg] using hwrite
    show execLoadRegs x (s.writeV r b) = mapNext _ (execLoadRegs x s)
    rw [execLoadRegs, execLoadRegs, s.loadRegisters_writeV_outside r b (n := regCount x) hx, mapNext_checkRange]
    rfl

/-- A destination that is no source is overwritten, so that its old value does not matter. FX0A alone may leave it. -/
theorem exec_writeV_of_overwritten {i : Instr} (hread : i.readsReg r = false) (hwrite : i.writesReg r = true)
    (hwait : ∀ x, i ≠ .ldVxK x) (s : State) (b : Byte) : exec i (s.writeV r b) = exec i s := by
  have hother {k : RegIdx} (hk : r ≠ k) : (s.writeV r b).readV k = s.readV k := State.readV_writeV_other s b hk.symm
  cases i with
  | ldByte x | ldVxDt x =>
    obtain rfl : r = x := by simpa [Instr.writesReg] using hwrite
    exact congrArg Host.Outcome.next (s.writeV_writeV_same r b _)
  | rnd x =>
    obtain rfl : r = x := by simpa [Instr.writesReg] using hwrite
    exact congrArg Host.Outcome.next (s.countDraw.writeV_writeV_same r b _)
  | ldReg x y =>
    obtain rfl : r = x := by simpa [Instr.writesReg] using hwrite
    have hy : r ≠ y := by simpa [Instr.readsReg] using hread
    refine congrArg Host.Outcome.next ?_
    rw [hother hy]
    exact s.writeV_writeV_same r b _
  | addReg x y | sub x y | subn x y =>
    obtain ⟨hx, hy⟩ : r ≠ x ∧ r ≠ y := by simpa [Instr.readsReg] using hread
    obtain rfl : r = vf := by simpa [Instr.writesReg, hx] using hwrite
    refine congrArg Host.Outcome.next ?_
    rw [hother hx, hother hy]
    exact s.writeFlagThenV_writeV_flag b _ _ _
  | shr x | shl x =>
    have hx : r ≠ x := by simpa [Instr.readsReg] using hread
    obtain rfl : r = vf := by simpa [Instr.writesReg, hx] using hwrite
    refine congrArg Host.Outcome.next ?_
    rw [hother hx]
    exact s.writeFlagThenV_writeV_flag b _ _ _
  | drw x y n =>
    obtain ⟨hx, hy⟩ : r ≠ x ∧ r ≠ y := by simpa [Instr.readsReg] using hread
    obtain rfl : r = vf := by simpa [Instr.writesReg] using hwrite
    show execDrw x y n (s.writeV vf b) = execDrw x y n s
    unfold execDrw
    rw [s.spriteDrawn_writeV vf b hx hy, drawn_writeV_flag]
    rfl
  | loadRegs x =>
    have hx : r ≤ x := by simpa [Instr.writesReg] using hwrite
    show execLoadRegs x (s.writeV r b) = execLoadRegs x s
    rw [execLoadRegs, execLoadRegs, s.loadRegisters_writeV_inside r b (n := regCount x) (Nat.lt_succ_of_le hx)]
    rfl
  | addByte x =>
    have hx : r ≠ x := by simpa [Instr.readsReg] using hread
    exact absurd (by simpa [Instr.writesReg] using hwrite) hx
  | orReg x y | andReg x y | xorReg x y =>
    obtain ⟨hx, -⟩ : r ≠ x ∧ r ≠ y := by simpa [Instr.readsReg] using hread
    exact absurd (by simpa [Instr.writesReg] using hwrite) hx
  | ldVxK x => exact absurd rfl (hwait x)
  | _ => cases hwrite

/-- What two results have in common when only register `r`, which held `b` in the start of the second, differs between them. -/
def SameButReg (s : State) (r : RegIdx) (b : Byte) (t u : State) : Prop :=
  (t.readV r = u.readV r ∨ (t.readV r = s.readV r ∧ u.readV r = b)) ∧
    RegsUnchangedExcept [r] t u ∧ UnchangedExcept [.v] t u

theorem SameButReg.refl (t : State) : SameButReg s r b t t :=
  ⟨.inl rfl, fun _ _ => rfl, UnchangedExcept.refl _ t⟩

theorem sameButReg_writeV {t : State} (hkept : t.readV r = s.readV r) : SameButReg s r b t (t.writeV r b) :=
  ⟨.inr ⟨hkept, t.readV_writeV_same r b⟩, regsUnchanged_writeV t r b, unchanged_writeV t r b⟩

theorem sameOutcome_refl {R : State → State → Prop} (hR : ∀ t, R t t) (a : Result) : SameOutcome R a a := by
  cases a with
  | next t => exact hR t
  | fault | refused => rfl

/-- FX0A overwrites its destination when a key is pressed, and keeps it when none is (R110). -/
theorem execLdVxK_sameButReg (x : RegIdx) (s : State) (b : Byte) :
    SameOutcome (SameButReg s x b) (execLdVxK x s) (execLdVxK x (s.writeV x b)) := by
  have hk : (s.writeV x b).pressedKeys = s.pressedKeys := rfl
  unfold execLdVxK
  rw [hk]
  cases s.pressedKeys with
  | nil => exact sameButReg_writeV (t := s.setPc (s.pc - 2)) rfl
  | cons k ks =>
    have hover (c : Byte) : (s.writeV x b).countDraw.writeV x c = s.countDraw.writeV x c :=
      s.countDraw.writeV_writeV_same x b c
    show SameButReg s x b (s.countDraw.writeV x _) ((s.writeV x b).countDraw.writeV x _)
    rw [hover]
    exact SameButReg.refl _

end NoSource

/-- Settles O46: a register that is no source commutes with the step where it is no destination, and is overwritten where it is one;
FX0A does one or the other. -/
theorem unnamedRegistersDoNotMatter : Obligations.UnnamedRegistersDoNotMatter := by
  intro i s r b hread
  show SameOutcome (SameButReg s r b) (exec i s) (exec i (s.writeV r b))
  cases hwrite : i.writesReg r with
  | false =>
    rw [exec_writeV_of_unnamed hread hwrite]
    cases he : exec i s with
    | next t => exact sameButReg_writeV (readV_of_exec he hwrite)
    | fault | refused => rfl
  | true =>
    by_cases hwait : ∃ x, i = .ldVxK x
    · obtain ⟨x, rfl⟩ := hwait
      obtain rfl : r = x := by simpa [Instr.writesReg] using hwrite
      exact execLdVxK_sameButReg r s b
    · rw [exec_writeV_of_overwritten hread hwrite (by simpa using hwait)]
      exact sameOutcome_refl SameButReg.refl _

end Sys2Proof.Machine
